-- ==== Sys2Proof/Word.lean ====
section
/-!
DEFINITION. The widths of the machine: 8-bit registers, memory cells and timers (R20, R26, R27, R50), 16-bit index
register, program counter, stack entries and instruction words (R22, R23, R24, R80), 12-bit address immediates (R82).
-/

namespace Sys2Proof

/-- An 8-bit value: a V register, a timer, a memory cell (R20, R26, R27, R50). -/
abbrev Byte := BitVec 8

/-- A 16-bit value: I, pc, a stack entry, an instruction word (R22, R23, R24, R80). -/
abbrev Word := BitVec 16

/-- The 12-bit address immediate `nnn` (R80, R82). -/
abbrev Addr12 := BitVec 12

/-- `zext_16` of a byte (R8). -/
def Byte.zext (b : Byte) : Word := b.setWidth 16

/-- `zext_16` of an address immediate (R8, R82). -/
def Addr12.zext (a : Addr12) : Word := a.setWidth 16

end Sys2Proof
end

