-- ==== Sys2Proof/Config.lean ====
section
/-!
DEFINITION. What is fixed for a machine (R6): the parameters the spec gives a value, the quirk enumerations (R31), the
shape of a glyph table (R59), and the three things it leaves open, as constants without a body: the initial quirk values
(OPEN in R6; log entry 3), the glyph table (OPEN in R6; log entry 4) and the random bytes (a draw under no law, R317; log
entry 2).
-/

namespace Sys2Proof

/-- The two settings of the shift quirk and of the load/store quirk (R31). -/
inductive QuirkMode where
  | legacy
  | revised
deriving DecidableEq, Repr, Inhabited

/-- The two settings of the wrap quirk (R31, R236, R237). -/
inductive WrapPolicy where
  | wrapBoth
  | clip
deriving DecidableEq, Repr, Inhabited

/-- The quirk configuration `Q`, three independent fields (R31). -/
structure Quirks where
  shift : QuirkMode
  loadStore : QuirkMode
  wrap : WrapPolicy
deriving DecidableEq, Repr, Inhabited

/-- A value of the parameter `GLYPHS`: 80 bytes, five a digit, digit 0 first, top row first (R59). -/
abbrev GlyphTable := Vector Byte 80

namespace Config

/-- `MEM_SIZE` (R6, R50). -/
abbrev memSize : Nat := 4096

/-- `PROG_BASE`, the entry point and the address `load` copies to (R6, R58). -/
abbrev progBase : Nat := 0x200

/-- `MAX_IMAGE` = 4096 − 0x200 (R6, R346). -/
abbrev maxImage : Nat := 3584

/-- `GLYPH_BASE` (R6, R58). -/
abbrev glyphBase : Nat := 0x050

/-- `GLYPH_SIZE`, 16 digits of 5 bytes (R6, R59). -/
abbrev glyphSize : Nat := 80

/-- `SHIFT_QUIRK`, OPEN (R6): no value of it can be proved. -/
opaque shiftQuirk : QuirkMode

/-- `LOAD_STORE_QUIRK`, OPEN (R6): no value of it can be proved. -/
opaque loadStoreQuirk : QuirkMode

/-- `WRAP_QUIRK`, OPEN (R6): no value of it can be proved. -/
opaque wrapQuirk : WrapPolicy

/-- The quirk values a machine is constructed with when nothing else is said (R31, R340). -/
def initialQuirks : Quirks := ⟨shiftQuirk, loadStoreQuirk, wrapQuirk⟩

/-- `GLYPHS`, OPEN (R6, R59, D30): no byte of it can be proved. Its default is `Machine.defaultGlyphs`. -/
opaque glyphs : GlyphTable

/-- The byte of the `k`-th random draw: any byte, under no law (R317). Without a body, so a proof holds for every
sequence of draws. -/
opaque randomByte : Nat → Byte

end Config

end Sys2Proof
end

