-- ==== Sys2Proof/Syntax.lean ====
section
/-!
DEFINITION. The 34 instructions (R2), one constructor per row of spec/opcode_table.json, in the table's order. Operands
have exactly the width of their field (R80, R82), so a term of `Instr` is never out of range. The low nibble of families
5 and 9, which no decoder examines (R86), is no operand.
-/

namespace Sys2Proof

/-- A general register V0 to VF, named by a 4-bit field `x` or `y` (R20, R82). -/
abbrev RegIdx := Fin 16

/-- The instructions, named after their rows of the opcode table. -/
inductive Instr where
  /-- CLS, word 00E0 (R231). -/
  | cls
  /-- RET, word 00EE (R131). -/
  | ret
  /-- JP nnn, 1nnn (R132). -/
  | jp (nnn : Addr12)
  /-- CALL nnn, 2nnn (R133). -/
  | call (nnn : Addr12)
  /-- SE Vx, kk, 3xkk (R134). -/
  | seImm (x : RegIdx) (kk : Byte)
  /-- SNE Vx, kk, 4xkk (R135). -/
  | sneImm (x : RegIdx) (kk : Byte)
  /-- SE Vx, Vy, 5xy? (R136). -/
  | seReg (x y : RegIdx)
  /-- LD Vx, kk, 6xkk (R162). -/
  | ldImm (x : RegIdx) (kk : Byte)
  /-- ADD Vx, kk, 7xkk (R163). -/
  | addImm (x : RegIdx) (kk : Byte)
  /-- LD Vx, Vy, 8xy0 (R164). -/
  | ldReg (x y : RegIdx)
  /-- OR Vx, Vy, 8xy1 (R165). -/
  | orReg (x y : RegIdx)
  /-- AND Vx, Vy, 8xy2 (R166). -/
  | andReg (x y : RegIdx)
  /-- XOR Vx, Vy, 8xy3 (R167). -/
  | xorReg (x y : RegIdx)
  /-- ADD Vx, Vy, 8xy4 (R168). -/
  | addReg (x y : RegIdx)
  /-- SUB Vx, Vy, 8xy5 (R169). -/
  | sub (x y : RegIdx)
  /-- SHR Vx, Vy, 8xy6 (R171). -/
  | shr (x y : RegIdx)
  /-- SUBN Vx, Vy, 8xy7 (R170). -/
  | subn (x y : RegIdx)
  /-- SHL Vx, Vy, 8xyE (R172). -/
  | shl (x y : RegIdx)
  /-- SNE Vx, Vy, 9xy? (R137). -/
  | sneReg (x y : RegIdx)
  /-- LD I, nnn, Annn (R200). -/
  | ldI (nnn : Addr12)
  /-- JP V0, nnn, Bnnn (R138). -/
  | jpV0 (nnn : Addr12)
  /-- RND Vx, kk, Cxkk (R173). -/
  | rnd (x : RegIdx) (kk : Byte)
  /-- DRW Vx, Vy, n, Dxyn (R232). -/
  | drw (x y : RegIdx) (n : Fin 16)
  /-- SKP Vx, Ex9E (R270). -/
  | skp (x : RegIdx)
  /-- SKNP Vx, ExA1 (R271). -/
  | sknp (x : RegIdx)
  /-- LD Vx, DT, Fx07 (R260). -/
  | ldVxDt (x : RegIdx)
  /-- LD Vx, K, Fx0A (R273). -/
  | ldVxK (x : RegIdx)
  /-- LD DT, Vx, Fx15 (R261). -/
  | ldDtVx (x : RegIdx)
  /-- LD ST, Vx, Fx18 (R262). -/
  | ldStVx (x : RegIdx)
  /-- ADD I, Vx, Fx1E (R201). -/
  | addIVx (x : RegIdx)
  /-- LD F, Vx, Fx29 (R202). -/
  | ldFVx (x : RegIdx)
  /-- LD B, Vx, Fx33 (R203). -/
  | ldBVx (x : RegIdx)
  /-- LD [I], Vx, Fx55 (R204). -/
  | ldMiVx (x : RegIdx)
  /-- LD Vx, [I], Fx65 (R205). -/
  | ldVxMi (x : RegIdx)
deriving DecidableEq, Repr

end Sys2Proof
end

