-- ==== Sys2Proof/Machine/State.lean ====
section
/-!
DEFINITION. The state of the core, all that 10_state.md and 20_memory.md give it (R20 to R33, R50), as plain data, and
its value after construction (R340, R341). Two fields are the model's own: `draws` (log entry 2) and `glyphs`, which
holds the machine's value of the parameter `GLYPHS` (log entry 4). The outputs of an
operation (dirty flag, event, cue) are not state (R34): Machine/Output.lean and Machine/HostOps.lean give them.
-/

namespace Sys2Proof.Machine

/-- The six fault kinds (R300). Each is raised by one condition and recorded in `State.fault`. -/
inductive FaultKind where
  /-- CALL with `SP = 16` -/
  | stackOverflow
  /-- RET with `SP = 0` -/
  | stackUnderflow
  /-- a fetch with `pc > 4094` -/
  | fetchOutOfBounds
  /-- a fetch with an odd `pc` -/
  | misalignedFetch
  /-- DRW, LD B, LD [I] or LD Vx,[I] with an address above 4095 -/
  | dataOutOfBounds
  /-- SKP or SKNP with `V[x] > 15` -/
  | keyIndexOutOfRange
deriving DecidableEq, Repr

/-- The key-wait latch (R30). -/
inductive Latch where
  | idle
  | waitingForPress
  | waitingForRelease (k : Fin 16)
deriving DecidableEq, Repr

/-- Memory: the cells that differ from their reset contents, by strictly rising address (R50; log entry 21). -/
abbrev Memory := List Host.Cell

/-- The framebuffer `Fb[x][y]`, 64 columns of 32 pixels, `true` for 1 (R28). -/
abbrev Framebuffer := Vector (Vector Bool 32) 64

/-- The core's state. -/
structure State where
  /-- V0 to VF (R20), VF the flag (R21) -/
  v : Vector Byte 16
  /-- the index register I (R22) -/
  idx : Word
  /-- the program counter (R23) -/
  pc : Word
  /-- Stack[0] to Stack[15] (R24) -/
  stack : Vector Word 16
  /-- the stack depth counter SP (R25) -/
  sp : Fin 17
  /-- the delay timer (R26) -/
  dt : Byte
  /-- the sound timer (R27) -/
  st : Byte
  /-- the framebuffer (R28) -/
  fb : Framebuffer
  /-- the key vector, true for pressed (R29) -/
  keys : Vector Bool 16
  /-- the key-wait latch (R30) -/
  latch : Latch
  /-- the quirk configuration Q (R31) -/
  quirks : Quirks
  /-- the fault status, none or one kind (R32) -/
  fault : Option FaultKind
  /-- memory (R50) -/
  mem : Memory
  /-- this machine's `GLYPHS`, the table `init` installs: a construction parameter, written by no operation (R6, R59, R342;
  log entry 4) -/
  glyphs : GlyphTable
  /-- how many random bytes have been drawn: the model's own field, for the free bytes of RND (R317; log entry 2) -/
  draws : Nat
deriving DecidableEq, Repr

/-- Why a step stops for good: never. The six faults of R300 are states the core goes on from (R301, R302), so they are
next states with `fault` set, and this type has no constructor (log entry 1). -/
inductive Fault where
deriving DecidableEq, Repr

/-- Why a step has no meaning. -/
inductive Refusal where
  /-- Raised by no arm of `exec`: every instruction is modelled. Safe: a refusal would say nothing about the core. -/
  | notModelled (mnemonic : String)
deriving DecidableEq, Repr

/-- What a step or an instruction answers. -/
abbrev Result := Host.Outcome State Fault Refusal

/-- The constructed state with initial quirks `q` (R340) and glyph table `g` (R6, R59): every other element as after `init`
(R341). Memory lists nothing: every cell reads as its reset contents (R50, R342). -/
def State.construct (q : Quirks) (g : GlyphTable) : State where
  v := Vector.replicate 16 0
  idx := 0
  pc := 0x200
  stack := Vector.replicate 16 0
  sp := 0
  dt := 0
  st := 0
  fb := Vector.replicate 64 (Vector.replicate 32 false)
  keys := Vector.replicate 16 false
  latch := .idle
  quirks := q
  fault := none
  mem := []
  glyphs := g
  draws := 0

/-- The machine right after reset: constructed with the OPEN initial quirks and the OPEN glyph table (R6, R340; log entries
2, 3 and 4). -/
def State.reset : State := State.construct Config.initialQuirks Config.glyphs

end Sys2Proof.Machine
end

