-- ==== Sys2Proof/Machine/Memory.lean ====
section
/-!
DEFINITION. The memory array (R50 to R60): reading and writing bytes of the canonical list, its reset contents, which the
machine's glyph table `g` fixes, the range test `InRange`, and the byte sequences instructions and `load` move.
-/

namespace Sys2Proof.Machine

/-- What a cell holds after `init`, which is what an unlisted address reads as: the glyph table `g` at 0x050 to 0x09F and
0 elsewhere (R50, R58, R342). -/
def resetByte (g : GlyphTable) (a : Nat) : Byte :=
  if h : Config.glyphBase ≤ a ∧ a < Config.glyphBase + Config.glyphSize then
    g[a - Config.glyphBase]'(by have := h.1; have := h.2; simp only [Config.glyphBase, Config.glyphSize] at *; omega)
  else 0

namespace Memory

/-- `MemRead(a, 1)` (R10, R57). -/
def read (g : GlyphTable) : Memory → Nat → Byte
  | [], a => resetByte g a
  | (k, b) :: rest, a => if a = k then b else read g rest a

/-- List a cell at its place in the rising order. -/
def insert : Memory → Nat → Byte → Memory
  | [], a, b => [(a, b)]
  | (k, c) :: rest, a, b =>
    if a < k then (a, b) :: (k, c) :: rest
    else if a = k then (a, b) :: rest
    else (k, c) :: insert rest a b

/-- Take an address out of the list, so that it reads as its reset contents. -/
def erase (m : Memory) (a : Nat) : Memory := m.filter fun c => c.1 != a

/-- `MemWrite(a, 1, b)` (R10, R57, R60). Only addresses 0 to 4095 exist (R50), and the range test keeps every write
among them, so what a write elsewhere does is never seen (R10; log entry 21). -/
def write (g : GlyphTable) (m : Memory) (a : Nat) (b : Byte) : Memory :=
  if a < Config.memSize then
    if b = resetByte g a then erase m a else insert m a b
  else m

/-- The canonical form: addresses exist, rise strictly, and no cell equals its reset contents. -/
def wf (g : GlyphTable) : Memory → Bool
  | [] => true
  | (k, b) :: rest =>
    decide (k < Config.memSize) && decide (b ≠ resetByte g k) && rest.all (fun c => decide (k < c.1)) && wf g rest

/-- Bytes stored at `a`, `a + 1`, … in ascending order (R53). -/
def writeBytes (g : GlyphTable) : Memory → Nat → List Byte → Memory
  | m, _, [] => m
  | m, a, b :: bs => writeBytes g (write g m a b) (a + 1) bs

/-- The `n` bytes at `a`, `a + 1`, … (R55). -/
def readBytes (g : GlyphTable) (m : Memory) (a : Nat) : Nat → List Byte
  | 0 => []
  | n + 1 => read g m a :: readBytes g m (a + 1) n

end Memory

/-- `MemRead(a, 1)` of the machine (R10). -/
def State.read (s : State) (a : Nat) : Byte := s.mem.read s.glyphs a

/-- `MemWrite` of the machine, bytes in ascending order (R10, R53). -/
def State.store (s : State) (a : Nat) (bytes : List Byte) : State :=
  { s with mem := s.mem.writeBytes s.glyphs a bytes }

/-- The machine's `n` bytes at `a`, `a + 1`, … (R55). -/
def State.readBytes (s : State) (a n : Nat) : List Byte := s.mem.readBytes s.glyphs a n

/-- `InRange(a, n)`, in exact arithmetic; true for `n = 0` (R10, R56). -/
def inRange (a n : Nat) : Bool := n == 0 || decide (a + n ≤ Config.memSize)

end Sys2Proof.Machine
end

