-- ==== Sys2Proof/Machine/Ops.lean ====
section
/-!
DEFINITION. The operations instructions share: registers, the pc, the stack (R25), the skip (R130), taking a fault
(R301), and `init`, the one way out of the fault state (R302, R341).
-/

namespace Sys2Proof.Machine

/-- `V[x]` (R9, R20). -/
def State.reg (s : State) (x : RegIdx) : Byte := s.v[x.val]

/-- `V[x] <- b` (R9, R20). No register is hardwired. -/
def State.setReg (s : State) (x : RegIdx) (b : Byte) : State := { s with v := s.v.set x.val b }

/-- `I <- a` (R22). -/
def State.setIdx (s : State) (a : Word) : State := { s with idx := a }

/-- `pc <- a` (R9, R23). -/
def State.setPc (s : State) (a : Word) : State := { s with pc := a }

/-- The default pc advance, `pc <- pc + 2` (R116). -/
def State.next2 (s : State) : State := { s with pc := s.pc + 2 }

/-- A skip passes over exactly one word: `pc + 4` if the condition holds, else `pc + 2` (R130). -/
def State.skipIf (s : State) (c : Bool) : State := { s with pc := if c then s.pc + 4 else s.pc + 2 }

/-- Push a return address; none on a full stack (R25). -/
def State.push (s : State) (a : Word) : Option State :=
  if h : s.sp.val < 16 then
    some { s with stack := s.stack.set s.sp.val a, sp := ⟨s.sp.val + 1, by omega⟩ }
  else none

/-- Pop a return address; none on an empty stack. The entry keeps its value (R24, R25). -/
def State.pop (s : State) : Option (Word × State) :=
  if h : 0 < s.sp.val then
    some (s.stack[s.sp.val - 1]'(by omega), { s with sp := ⟨s.sp.val - 1, by omega⟩ })
  else none

/-- Fault entry (R301): the kind is recorded and nothing else changes, the pc among it. There is no vector, no saved
state and no mode. -/
def takeFault (k : FaultKind) (s : State) : State := { s with fault := some k }

/-- The numeric code of a fault kind (R300). -/
def FaultKind.code : FaultKind → Nat
  | .stackOverflow => 1
  | .stackUnderflow => 2
  | .fetchOutOfBounds => 3
  | .misalignedFetch => 4
  | .dataOutOfBounds => 5
  | .keyIndexOutOfRange => 6

/-- `init` (R341): the constructed state, with `Q` kept (R343) and this machine's glyph table installed (R342). It alone leaves the fault state (R302). The random source
is outside the core (R317), so the draw counter goes on (log entry 2). -/
def init (s : State) : State := { State.construct s.quirks s.glyphs with draws := s.draws }

/-- Run `k` if the `n` bytes at I exist, else raise DataOutOfBounds with nothing written (R56, R121). -/
def withRange (n : Nat) (s : State) (k : State) : Result :=
  if inRange s.idx.toNat n then .next k else .next (takeFault .dataOutOfBounds s)

end Sys2Proof.Machine
end

