-- ==== Sys2Proof/Machine/Operands.lean ====
section
/-!
DEFINITION. The operand forms that are more than a register or an immediate: the source of a shift (R171), the key index
of a key skip (R272), the pressed key a wait captures (R275), the decimal digits of a store (R203), the registers moved
by a dump or a load (R204, R205), the I update of both, and a sprite's pixels (R233 to R237).
-/

namespace Sys2Proof.Machine

/-- The shift source: `V[y]` under legacy, `V[x]` under revised (R171, R172). -/
def shiftSource (s : State) (x y : RegIdx) : Byte :=
  match s.quirks.shift with
  | .legacy => s.reg y
  | .revised => s.reg x

/-- The key a register names, none above 15 (R272). -/
def keyIndex (b : Byte) : Option (Fin 16) :=
  if h : b.toNat < 16 then some ⟨b.toNat, h⟩ else none

/-- The least pressed key, all 16 taking part (R275). -/
def leastPressed (keys : Vector Bool 16) : Option (Fin 16) :=
  (List.finRange 16).find? fun k => keys[k.val]

/-- Hundreds, tens and ones of a byte (R203). -/
def bcdDigits (b : Byte) : List Byte :=
  [BitVec.ofNat 8 (b.toNat / 100), BitVec.ofNat 8 (b.toNat / 10 % 10), BitVec.ofNat 8 (b.toNat % 10)]

/-- `V0` to `Vx` (R204). -/
def regsUpTo (s : State) (x : RegIdx) : List Byte := s.v.toList.take (x.val + 1)

/-- `V[0]` to `V[n-1]` loaded from the `n` bytes `read` gives at `a` upward, the others kept (R205). -/
def loadRegs (read : Nat → Byte) (a : Nat) : Nat → Vector Byte 16 → Vector Byte 16
  | 0, v => v
  | n + 1, v => (loadRegs read a n v).setIfInBounds n (read (a + n))

/-- I after a dump or load of `V0..Vx`: `I + x + 1` under legacy, unchanged under revised (R204, R205). -/
def idxAfter (s : State) (x : RegIdx) : Word :=
  match s.quirks.loadStore with
  | .legacy => s.idx + BitVec.ofNat 16 (x.val + 1)
  | .revised => s.idx

/-- A framebuffer position: column and row (R28). -/
abbrev Pixel := Fin 64 × Fin 32

/-- Where the raw target `(tx, ty)` is drawn: reduced modulo 64 and 32 (R236), or dropped off screen (R237). -/
def placePixel (p : WrapPolicy) (tx ty : Nat) : Option Pixel :=
  match p with
  | .wrapBoth => some (⟨tx % 64, Nat.mod_lt _ (by decide)⟩, ⟨ty % 32, Nat.mod_lt _ (by decide)⟩)
  | .clip => if h : tx < 64 ∧ ty < 32 then some (⟨tx, h.1⟩, ⟨ty, h.2⟩) else none

/-- The drawn pixels of one sprite row: column `c` is bit `7 - c` of the byte (R235). -/
def rowPixels (p : WrapPolicy) (px ty : Nat) (b : Byte) : List Pixel :=
  [0, 1, 2, 3, 4, 5, 6, 7].filterMap fun c => if b.getLsbD (7 - c) then placePixel p (px + c) ty else none

/-- The drawn pixels of a sprite whose rows are `rows`, the first at row `py` (R235). -/
def spritePixels (p : WrapPolicy) (px : Nat) : Nat → List Byte → List Pixel
  | _, [] => []
  | py, b :: rows => rowPixels p px py b ++ spritePixels p px (py + 1) rows

end Sys2Proof.Machine
end

