-- ==== Sys2Proof/Machine/Flags.lean ====
section
/-!
DEFINITION. Every flag computation of the machine, each a value for VF (R21): carry and no-borrow (R160), the bit a shift
drops (R171, R172), and the collision of a draw (R238); and the order in which result and flag are written (R161).
-/

namespace Sys2Proof.Machine

/-- A flag as a register value, 1 or 0 (R21). -/
def flagByte (c : Bool) : Byte := if c then 1 else 0

/-- The carry of `a + b`, from the exact sum (R168). -/
def carryFlag (a b : Byte) : Byte := flagByte (decide (a.toNat + b.toNat > 255))

/-- The no-borrow flag of `a - b`: 0 iff `a < b` (R169, R170). -/
def noBorrowFlag (a b : Byte) : Byte := flagByte (!decide (a.toNat < b.toNat))

/-- The bit a right shift drops, bit 0 (R171). -/
def lowBitFlag (src : Byte) : Byte := flagByte (src.getLsbD 0)

/-- The bit a left shift drops, bit 7 (R172). -/
def highBitFlag (src : Byte) : Byte := flagByte (src.getLsbD 7)

/-- The result goes to `V[x]` first and the flag to VF last, so the flag stands when `x = 15` (R161). -/
def State.setResultAndFlag (s : State) (x : RegIdx) (result flag : Byte) : State :=
  (s.setReg x result).setReg 15 flag

/-- `Fb[x][y]` (R28). -/
def Framebuffer.pixel (fb : Framebuffer) (p : Pixel) : Bool := fb[p.1.val][p.2.val]

/-- `Fb[x][y] <- 1 - Fb[x][y]` (R238). -/
def Framebuffer.toggle (fb : Framebuffer) (p : Pixel) : Framebuffer :=
  fb.set p.1.val (fb[p.1.val].set p.2.val (!fb[p.1.val][p.2.val]))

/-- Draw pixels in order: note a collision if the pixel is already 1, then toggle it (R238). -/
def drawPixels : List Pixel → Framebuffer × Bool → Framebuffer × Bool
  | [], acc => acc
  | p :: ps, (fb, hit) => drawPixels ps (Framebuffer.toggle fb p, hit || Framebuffer.pixel fb p)

end Sys2Proof.Machine
end

