-- ==== Sys2Proof/Machine/Alu.lean ====
section
/-!
DEFINITION. The register file and ALU (R160 to R173). Every meaning ends with `pc <- pc + 2`; none can fault.
-/

namespace Sys2Proof.Machine

/-- LD Vx, kk (R162). -/
def execLdImm (x : RegIdx) (kk : Byte) (s : State) : Result := .next (s.setReg x kk).next2

/-- ADD Vx, kk (R163): wraps, no flag. -/
def execAddImm (x : RegIdx) (kk : Byte) (s : State) : Result := .next (s.setReg x (s.reg x + kk)).next2

/-- LD Vx, Vy (R164). -/
def execLdReg (x y : RegIdx) (s : State) : Result := .next (s.setReg x (s.reg y)).next2

/-- OR Vx, Vy (R165). -/
def execOrReg (x y : RegIdx) (s : State) : Result := .next (s.setReg x (s.reg x ||| s.reg y)).next2

/-- AND Vx, Vy (R166). -/
def execAndReg (x y : RegIdx) (s : State) : Result := .next (s.setReg x (s.reg x &&& s.reg y)).next2

/-- XOR Vx, Vy (R167). -/
def execXorReg (x y : RegIdx) (s : State) : Result := .next (s.setReg x (s.reg x ^^^ s.reg y)).next2

/-- ADD Vx, Vy (R168): VF takes the carry of the exact sum. -/
def execAddReg (x y : RegIdx) (s : State) : Result :=
  .next (s.setResultAndFlag x (s.reg x + s.reg y) (carryFlag (s.reg x) (s.reg y))).next2

/-- SUB Vx, Vy (R169): `V[x] - V[y]`, VF the no-borrow flag. -/
def execSub (x y : RegIdx) (s : State) : Result :=
  .next (s.setResultAndFlag x (s.reg x - s.reg y) (noBorrowFlag (s.reg x) (s.reg y))).next2

/-- SUBN Vx, Vy (R170): `V[y] - V[x]`, VF the no-borrow flag. -/
def execSubn (x y : RegIdx) (s : State) : Result :=
  .next (s.setResultAndFlag x (s.reg y - s.reg x) (noBorrowFlag (s.reg y) (s.reg x))).next2

/-- SHR Vx, Vy (R171). -/
def execShr (x y : RegIdx) (s : State) : Result :=
  .next (s.setResultAndFlag x (shiftSource s x y >>> 1) (lowBitFlag (shiftSource s x y))).next2

/-- SHL Vx, Vy (R172). -/
def execShl (x y : RegIdx) (s : State) : Result :=
  .next (s.setResultAndFlag x (shiftSource s x y <<< 1) (highBitFlag (shiftSource s x y))).next2

/-- RND with the drawn byte `r` (R173). -/
def rndWith (r : Byte) (x : RegIdx) (kk : Byte) (s : State) : State := (s.setReg x (r &&& kk)).next2

/-- RND Vx, kk (R173): one free byte per execution (R317), the draw counter moved past it. -/
def execRnd (x : RegIdx) (kk : Byte) (s : State) : Result :=
  .next (rndWith (Config.randomByte s.draws) x kk { s with draws := s.draws + 1 })

end Sys2Proof.Machine
end

