-- ==== Sys2Proof/Machine/ControlFlow.lean ====
section
/-!
DEFINITION. Control transfer (R130 to R138). Each meaning gives the whole pc update; no default advance is added (R116).
-/

namespace Sys2Proof.Machine

/-- RET (R131): `if SP = 0 then Fault(StackUnderflow); SP <- SP - 1; pc <- Stack[SP]`. -/
def execRet (s : State) : Result :=
  match s.pop with
  | none => .next (takeFault .stackUnderflow s)
  | some (a, t) => .next (t.setPc a)

/-- JP nnn (R132). -/
def execJp (nnn : Addr12) (s : State) : Result := .next (s.setPc nnn.zext)

/-- CALL nnn (R133): `if SP = 16 then Fault(StackOverflow)`, else push `pc + 2` and jump. -/
def execCall (nnn : Addr12) (s : State) : Result :=
  match s.push (s.pc + 2) with
  | none => .next (takeFault .stackOverflow s)
  | some t => .next (t.setPc nnn.zext)

/-- SE Vx, kk (R134). -/
def execSeImm (x : RegIdx) (kk : Byte) (s : State) : Result := .next (s.skipIf (s.reg x == kk))

/-- SNE Vx, kk (R135). -/
def execSneImm (x : RegIdx) (kk : Byte) (s : State) : Result := .next (s.skipIf (s.reg x != kk))

/-- SE Vx, Vy (R136). -/
def execSeReg (x y : RegIdx) (s : State) : Result := .next (s.skipIf (s.reg x == s.reg y))

/-- SNE Vx, Vy (R137). -/
def execSneReg (x y : RegIdx) (s : State) : Result := .next (s.skipIf (s.reg x != s.reg y))

/-- JP V0, nnn (R138): `pc <- nnn + V[0]`, exact. -/
def execJpV0 (nnn : Addr12) (s : State) : Result := .next (s.setPc (nnn.zext + (s.reg 0).zext))

end Sys2Proof.Machine
end

