-- ==== Sys2Proof/Machine/Display.lean ====
section
/-!
DEFINITION. Clear-screen and the XOR-draw and collision engine (R230 to R239). Both set the step's display-dirty output,
which Machine/Output.lean gives (R118).
-/

namespace Sys2Proof.Machine

/-- A framebuffer of zeros (R231). -/
def clearFramebuffer : Framebuffer := Vector.replicate 64 (Vector.replicate 32 false)

/-- CLS (R231). -/
def execCls (s : State) : Result := .next { s with fb := clearFramebuffer, pc := s.pc + 2 }

/-- The pixels DRW draws: coordinates, height and I as they stand at the start of the instruction (R233), the sprite
bytes at I (R234), placed by the wrap quirk (R235 to R237). -/
def drwPixels (x y : RegIdx) (n : Fin 16) (s : State) : List Pixel :=
  spritePixels s.quirks.wrap (s.reg x).toNat (s.reg y).toNat (s.readBytes s.idx.toNat n.val)

/-- The framebuffer and the collision after the draw (R238). -/
def drwResult (x y : RegIdx) (n : Fin 16) (s : State) : Framebuffer × Bool :=
  drawPixels (drwPixels x y n s) (s.fb, false)

/-- DRW Vx, Vy, n (R232 to R239): all `n` bytes are range-checked, VF ends as the collision. -/
def execDrw (x y : RegIdx) (n : Fin 16) (s : State) : Result :=
  withRange n.val s
    ({ s with fb := (drwResult x y n s).1, pc := s.pc + 2 }.setReg 15 (flagByte (drwResult x y n s).2))

end Sys2Proof.Machine
end

