-- ==== Sys2Proof/Machine/IndexMemory.lean ====
section
/-!
DEFINITION. The index register and the memory transfers (R200 to R205). Every meaning ends with `pc <- pc + 2` unless it
faults, and a fault is checked over the whole range before any write (R121).
-/

namespace Sys2Proof.Machine

/-- LD I, nnn (R200). -/
def execLdI (nnn : Addr12) (s : State) : Result := .next (s.setIdx nnn.zext).next2

/-- ADD I, Vx (R201): modulo 65536, no flag. -/
def execAddIVx (x : RegIdx) (s : State) : Result := .next (s.setIdx (s.idx + (s.reg x).zext)).next2

/-- The address of the glyph of `b`, `0x050 + 5 * b` with all of `b` (R202). -/
def glyphAddress (b : Byte) : Word := BitVec.ofNat 16 (Config.glyphBase + 5 * b.toNat)

/-- LD F, Vx (R202). -/
def execLdFVx (x : RegIdx) (s : State) : Result := .next (s.setIdx (glyphAddress (s.reg x))).next2

/-- LD B, Vx (R203): three digits at I, I+1, I+2. -/
def execLdBVx (x : RegIdx) (s : State) : Result :=
  withRange 3 s { s.store s.idx.toNat (bcdDigits (s.reg x)) with pc := s.pc + 2 }

/-- LD [I], Vx (R204): V0 to Vx stored at I, I+1, …. -/
def execLdMiVx (x : RegIdx) (s : State) : Result :=
  withRange (x.val + 1) s
    { s.store s.idx.toNat (regsUpTo s x) with idx := idxAfter s x, pc := s.pc + 2 }

/-- LD Vx, [I] (R205): V0 to Vx loaded from I, I+1, …. -/
def execLdVxMi (x : RegIdx) (s : State) : Result :=
  withRange (x.val + 1) s
    { s with v := loadRegs s.read s.idx.toNat (x.val + 1) s.v, idx := idxAfter s x, pc := s.pc + 2 }

end Sys2Proof.Machine
end

