-- ==== Sys2Proof/Machine/Input.lean ====
section
/-!
DEFINITION. The key skips and the blocking key wait (R270 to R279).
-/

namespace Sys2Proof.Machine

/-- A key skip: the fault for an index above 15 (R272), else the skip on `want` against the key (R270, R271). -/
def skipOnKey (want : Bool) (x : RegIdx) (s : State) : Result :=
  match keyIndex (s.reg x) with
  | none => .next (takeFault .keyIndexOutOfRange s)
  | some k => .next (s.skipIf (s.keys[k.val] == want))

/-- SKP Vx (R270). -/
def execSkp (x : RegIdx) (s : State) : Result := skipOnKey true x s

/-- SKNP Vx (R271). -/
def execSknp (x : RegIdx) (s : State) : Result := skipOnKey false x s

/-- LD Vx, K (R273): one latch transition per execution (R277), the pc moving only on the one that resolves. -/
def execLdVxK (x : RegIdx) (s : State) : Result :=
  match s.latch with
  -- R274: the keys are not sampled
  | .idle => .next { s with latch := .waitingForPress }
  -- R275
  | .waitingForPress =>
    match leastPressed s.keys with
    | some k => .next { s with latch := .waitingForRelease k }
    | none => .next s
  -- R276: only key k is watched
  | .waitingForRelease k =>
    if s.keys[k.val] then .next s
    else .next ({ s with latch := .idle, pc := s.pc + 2 }.setReg x (BitVec.ofNat 8 k.val))

end Sys2Proof.Machine
end

