-- ==== Sys2Proof/Machine/Timers.lean ====
section
/-!
DEFINITION. The timer instructions (R260 to R262). The countdown is a host operation (Machine/HostOps.lean).
-/

namespace Sys2Proof.Machine

/-- LD Vx, DT (R260). -/
def execLdVxDt (x : RegIdx) (s : State) : Result := .next (s.setReg x s.dt).next2

/-- LD DT, Vx (R261). -/
def execLdDtVx (x : RegIdx) (s : State) : Result := .next { s with dt := s.reg x, pc := s.pc + 2 }

/-- LD ST, Vx (R262). It emits no cue. -/
def execLdStVx (x : RegIdx) (s : State) : Result := .next { s with st := s.reg x, pc := s.pc + 2 }

end Sys2Proof.Machine
end

