-- ==== Sys2Proof/Decode.lean ====
section
/-!
DEFINITION. Decoding, total on any word and any bytes (R83 to R90, R92), and after it the encoder (R81, R93). The bit
patterns other than 6xkk, 7xkk, 8xy6, 9xy0, Fx55 and Fx65 are the conventional ones the spec adopts (log entry 5).
-/

namespace Sys2Proof

/-- Why bytes are no instruction. -/
inductive DecodeError where
  /-- fewer than the two bytes an instruction word has (R80) -/
  | truncated
  /-- a word that rules R84 to R89 do not assign (R90) -/
  | unknown (w : Word)
deriving DecidableEq, Repr

/-- `op`, the top nibble `w[15:12]` (R80). -/
def fieldOp (w : Word) : Nat := w.toNat / 4096

/-- `x`, the second nibble `w[11:8]` (R80). -/
def fieldX (w : Word) : RegIdx := ⟨w.toNat / 256 % 16, Nat.mod_lt _ (by decide)⟩

/-- `y`, the third nibble `w[7:4]` (R80). -/
def fieldY (w : Word) : RegIdx := ⟨w.toNat / 16 % 16, Nat.mod_lt _ (by decide)⟩

/-- `n`, the low nibble `w[3:0]` (R80). -/
def fieldN (w : Word) : Fin 16 := ⟨w.toNat % 16, Nat.mod_lt _ (by decide)⟩

/-- `kk`, the low byte `w[7:0]` (R80). -/
def fieldKK (w : Word) : Byte := w.setWidth 8

/-- `nnn`, the low twelve bits `w[11:0]` (R7, R80). -/
def fieldNNN (w : Word) : Addr12 := w.setWidth 12

/-- Family 0: the whole word is matched (R85). -/
def decodeFamily0 (w : Word) : Except DecodeError Instr :=
  if w.toNat = 0x00E0 then .ok .cls
  else if w.toNat = 0x00EE then .ok .ret
  else .error (.unknown w)

/-- Family 8: the low nibble selects (R87). -/
def decodeFamily8 (w : Word) : Except DecodeError Instr :=
  match w.toNat % 16 with
  | 0x0 => .ok (.ldReg (fieldX w) (fieldY w))
  | 0x1 => .ok (.orReg (fieldX w) (fieldY w))
  | 0x2 => .ok (.andReg (fieldX w) (fieldY w))
  | 0x3 => .ok (.xorReg (fieldX w) (fieldY w))
  | 0x4 => .ok (.addReg (fieldX w) (fieldY w))
  | 0x5 => .ok (.sub (fieldX w) (fieldY w))
  | 0x6 => .ok (.shr (fieldX w) (fieldY w))
  | 0x7 => .ok (.subn (fieldX w) (fieldY w))
  | 0xE => .ok (.shl (fieldX w) (fieldY w))
  | _ => .error (.unknown w)

/-- Family E: the low byte selects (R88). -/
def decodeFamilyE (w : Word) : Except DecodeError Instr :=
  match w.toNat % 256 with
  | 0x9E => .ok (.skp (fieldX w))
  | 0xA1 => .ok (.sknp (fieldX w))
  | _ => .error (.unknown w)

/-- Family F: the low byte selects (R89). -/
def decodeFamilyF (w : Word) : Except DecodeError Instr :=
  match w.toNat % 256 with
  | 0x07 => .ok (.ldVxDt (fieldX w))
  | 0x0A => .ok (.ldVxK (fieldX w))
  | 0x15 => .ok (.ldDtVx (fieldX w))
  | 0x18 => .ok (.ldStVx (fieldX w))
  | 0x1E => .ok (.addIVx (fieldX w))
  | 0x29 => .ok (.ldFVx (fieldX w))
  | 0x33 => .ok (.ldBVx (fieldX w))
  | 0x55 => .ok (.ldMiVx (fieldX w))
  | 0x65 => .ok (.ldVxMi (fieldX w))
  | _ => .error (.unknown w)

/-- The decoder (R83, R84, R115): it reads nothing but the word (R92). The low nibble of families 5 and 9 is not
examined (R86). -/
def decodeWord (w : Word) : Except DecodeError Instr :=
  match fieldOp w with
  | 0x0 => decodeFamily0 w
  | 0x1 => .ok (.jp (fieldNNN w))
  | 0x2 => .ok (.call (fieldNNN w))
  | 0x3 => .ok (.seImm (fieldX w) (fieldKK w))
  | 0x4 => .ok (.sneImm (fieldX w) (fieldKK w))
  | 0x5 => .ok (.seReg (fieldX w) (fieldY w))
  | 0x6 => .ok (.ldImm (fieldX w) (fieldKK w))
  | 0x7 => .ok (.addImm (fieldX w) (fieldKK w))
  | 0x8 => decodeFamily8 w
  | 0x9 => .ok (.sneReg (fieldX w) (fieldY w))
  | 0xA => .ok (.ldI (fieldNNN w))
  | 0xB => .ok (.jpV0 (fieldNNN w))
  | 0xC => .ok (.rnd (fieldX w) (fieldKK w))
  | 0xD => .ok (.drw (fieldX w) (fieldY w) (fieldN w))
  | 0xE => decodeFamilyE w
  | 0xF => decodeFamilyF w
  | _ => .error (.unknown w)

/-- The word two bytes of memory make, the first the high one (R52, R114). -/
def bigEndian (hi lo : Byte) : Word := BitVec.ofNat 16 (hi.toNat * 256 + lo.toNat)

/-- The high byte of a word, the one at the lower address (R52). -/
def highByte (w : Word) : Byte := BitVec.ofNat 8 (w.toNat / 256)

/-- The low byte of a word, the one at the higher address (R52). -/
def lowByte (w : Word) : Byte := BitVec.ofNat 8 w.toNat

/-- Decoding from bytes in memory order: the instruction and the bytes after it. Every instruction is one word (R91). -/
def decode : List Byte → Except DecodeError (Instr × List Byte)
  | hi :: lo :: rest =>
    match decodeWord (bigEndian hi lo) with
    | .ok i => .ok (i, rest)
    | .error e => .error e
  | _ => .error .truncated

/-- The word numbered as the opcode table numbers it: `nbits` bits of `w`, the bits above them zero. -/
def tableWord (nbits w : Nat) : Word := BitVec.ofNat 16 (w % 2 ^ nbits)

/-- The instruction the decoder reads from the bytes of an opcode-table word, laid out as memory holds them (R52). -/
def decodeTableWord (nbits w : Nat) : Option Instr :=
  match decode [highByte (tableWord nbits w), lowByte (tableWord nbits w)] with
  | .ok (i, _) => some i
  | .error _ => none

/-! ## The encoder, from the formats of R81 -/

/-- Format `A`: `oooo nnnn nnnn nnnn`. -/
def formatA (op : Nat) (nnn : Addr12) : Word := BitVec.ofNat 16 (op * 4096 + nnn.toNat)

/-- Formats `XK` and `XS`: `oooo xxxx kkkk kkkk`. -/
def formatXK (op : Nat) (x : RegIdx) (kk : Byte) : Word := BitVec.ofNat 16 (op * 4096 + x.val * 256 + kk.toNat)

/-- Formats `XY`, `XYS` and `XYN`: `oooo xxxx yyyy nnnn`. -/
def formatXY (op : Nat) (x y : RegIdx) (n : Fin 16) : Word :=
  BitVec.ofNat 16 (op * 4096 + x.val * 256 + y.val * 16 + n.val)

/-- The word of an instruction (R81, R93). `5xy0` and `9xy0` are spelled with low nibble 0 (R86). -/
def encode : Instr → Word
  | .cls => 0x00E0
  | .ret => 0x00EE
  | .jp nnn => formatA 0x1 nnn
  | .call nnn => formatA 0x2 nnn
  | .seImm x kk => formatXK 0x3 x kk
  | .sneImm x kk => formatXK 0x4 x kk
  | .seReg x y => formatXY 0x5 x y 0
  | .ldImm x kk => formatXK 0x6 x kk
  | .addImm x kk => formatXK 0x7 x kk
  | .ldReg x y => formatXY 0x8 x y 0x0
  | .orReg x y => formatXY 0x8 x y 0x1
  | .andReg x y => formatXY 0x8 x y 0x2
  | .xorReg x y => formatXY 0x8 x y 0x3
  | .addReg x y => formatXY 0x8 x y 0x4
  | .sub x y => formatXY 0x8 x y 0x5
  | .shr x y => formatXY 0x8 x y 0x6
  | .subn x y => formatXY 0x8 x y 0x7
  | .shl x y => formatXY 0x8 x y 0xE
  | .sneReg x y => formatXY 0x9 x y 0
  | .ldI nnn => formatA 0xA nnn
  | .jpV0 nnn => formatA 0xB nnn
  | .rnd x kk => formatXK 0xC x kk
  | .drw x y n => formatXY 0xD x y n
  | .skp x => formatXK 0xE x 0x9E
  | .sknp x => formatXK 0xE x 0xA1
  | .ldVxDt x => formatXK 0xF x 0x07
  | .ldVxK x => formatXK 0xF x 0x0A
  | .ldDtVx x => formatXK 0xF x 0x15
  | .ldStVx x => formatXK 0xF x 0x18
  | .addIVx x => formatXK 0xF x 0x1E
  | .ldFVx x => formatXK 0xF x 0x29
  | .ldBVx x => formatXK 0xF x 0x33
  | .ldMiVx x => formatXK 0xF x 0x55
  | .ldVxMi x => formatXK 0xF x 0x65

end Sys2Proof
end

