-- ==== Sys2Proof/Machine/Fetch.lean ====
section
/-!
DEFINITION. What a step finds before any instruction runs: the checks of R111 to R113 in the order of R304, the fetch
(R114) and the decoding (R115).
-/

namespace Sys2Proof.Machine

/-- What a step does, decided in the order of R304. -/
inductive Phase where
  /-- the fault state: nothing is fetched (R111) -/
  | halted (k : FaultKind)
  /-- the fetch raises a fault (R112, R113) -/
  | fetchFault (k : FaultKind)
  /-- the word is no instruction (R117) -/
  | unknown (w : Word)
  /-- the instruction runs (R116) -/
  | run (i : Instr)
deriving DecidableEq, Repr

/-- The big-endian word at `a` and `a + 1` (R52, R114). -/
def wordAt (s : State) (a : Nat) : Word := bigEndian (s.read a) (s.read (a + 1))

/-- The fetch checks, alignment first (R112, R113). -/
def fetchCheck (pc : Word) : Option FaultKind :=
  if pc.toNat % 2 = 1 then some .misalignedFetch
  else if pc.toNat > 4094 then some .fetchOutOfBounds
  else none

/-- The phase of the next step (R110, R304). -/
def phase (s : State) : Phase :=
  match s.fault with
  | some k => .halted k
  | none =>
    match fetchCheck s.pc with
    | some k => .fetchFault k
    | none =>
      match decodeWord (wordAt s s.pc.toNat) with
      | .error _ => .unknown (wordAt s s.pc.toNat)
      | .ok i => .run i

/-- Place the two bytes of a word where the next step fetches, and make that step fetch at all: no fault, and the pc at
the entry point if it could not be fetched from (log entry 20). -/
def placeFetchWord (s : State) (w : Word) : State :=
  let pc := if (fetchCheck s.pc).isNone then s.pc else 0x200
  { s.store pc.toNat [highByte w, lowByte w] with fault := none, pc := pc }

end Sys2Proof.Machine
end

