-- ==== Sys2Proof/Machine/Step.lean ====
section
/-!
DEFINITION. `step()` (R110): one atomic operation, at most one instruction. Its output record is `stepOutput`
(Machine/Output.lean).
-/

namespace Sys2Proof.Machine

/-- One step (R110 to R117). -/
def step (s : State) : Host.Outcome State Fault Refusal :=
  match phase s with
  | .halted _ => .next s
  | .fetchFault k => .next (takeFault k s)
  | .unknown _ => .next s.next2
  | .run i => exec i s

/-- `s` with an opcode-table word stored where the next step fetches, so that this step runs it (log entry 20). -/
def State.withFetchWord (s : State) (nbits w : Nat) : State := placeFetchWord s (tableWord nbits w)

end Sys2Proof.Machine
end

