-- ==== Sys2Proof/Machine/Output.lean ====
section
/-!
DEFINITION. The record a step returns (R119), the display-dirty output among it (R118). It is no state (R34): it is a
function of the state the step starts from.
-/

namespace Sys2Proof.Machine

/-- A step's event (R119). -/
inductive Event where
  /-- an instruction ran without fault, or a key wait is pending -/
  | none
  /-- word `w` fetched at address `a` is no instruction (R117) -/
  | unknown (w : Word) (a : Word)
  /-- a fault was raised, or the core is in the fault state (R111, R301) -/
  | faulted (k : FaultKind)
deriving DecidableEq, Repr

/-- The step output (R119). -/
structure StepOutput where
  dirty : Bool
  event : Event
deriving DecidableEq, Repr

/-- The instructions that mark the display dirty (R118): CLS and DRW, whether or not a pixel changes. -/
def marksDirty : Instr → Bool
  | .cls => true
  | .ret => false
  | .jp _ => false
  | .call _ => false
  | .seImm _ _ => false
  | .sneImm _ _ => false
  | .seReg _ _ => false
  | .ldImm _ _ => false
  | .addImm _ _ => false
  | .ldReg _ _ => false
  | .orReg _ _ => false
  | .andReg _ _ => false
  | .xorReg _ _ => false
  | .addReg _ _ => false
  | .sub _ _ => false
  | .shr _ _ => false
  | .subn _ _ => false
  | .shl _ _ => false
  | .sneReg _ _ => false
  | .ldI _ => false
  | .jpV0 _ => false
  | .rnd _ _ => false
  | .drw _ _ _ => true
  | .skp _ => false
  | .sknp _ => false
  | .ldVxDt _ => false
  | .ldVxK _ => false
  | .ldDtVx _ => false
  | .ldStVx _ => false
  | .addIVx _ => false
  | .ldFVx _ => false
  | .ldBVx _ => false
  | .ldMiVx _ => false
  | .ldVxMi _ => false

/-- The output of an instruction that left the state `t`: a fault it raised makes dirty false (R118, R301). -/
def instrOutput (i : Instr) (t : State) : StepOutput :=
  match t.fault with
  | some k => ⟨false, .faulted k⟩
  | none => ⟨marksDirty i, .none⟩

/-- What `step()` returns to the host when called in state `s` (R119). -/
def stepOutput (s : State) : StepOutput :=
  match phase s with
  | .halted k => ⟨false, .faulted k⟩
  | .fetchFault k => ⟨false, .faulted k⟩
  | .unknown w => ⟨false, .unknown w s.pc⟩
  | .run i =>
    match exec i s with
    | .next t => instrOutput i t
    | .fault _ => ⟨false, .none⟩
    | .refused _ => ⟨false, .none⟩

end Sys2Proof.Machine
end

