-- ==== Sys2Proof/Machine/HostOps.lean ====
section
/-!
DEFINITION. The host's operations (R311), each atomic and between steps (R62, R310), and runs of them in any order.
`construct` is `State.construct`, with the default glyph table `State.constructDefault`, and `init` is in Machine/Ops.lean.
-/

namespace Sys2Proof.Machine

/-- What `load` returns (R345, R346). -/
inductive LoadResult where
  | ok
  | imageTooLarge
deriving DecidableEq, Repr

/-- `load(bytes)` (R345): the image at 0x200 upward and nothing else; too long an image changes nothing (R346). -/
def load (bytes : List Byte) (s : State) : State × LoadResult :=
  if bytes.length ≤ Config.maxImage then
    (s.store Config.progBase bytes, .ok)
  else (s, .imageTooLarge)

/-- A timer's countdown, never below 0 (R312, R313). -/
def countDown (b : Byte) : Byte := if b = 0 then 0 else b - 1

/-- `tick_timers()` (R312, R313): both timers, whatever else the state is (R315), and the cue, which marks ST going from
1 to 0 (R314). -/
def tickTimers (s : State) : State × Bool :=
  ({ s with dt := countDown s.dt, st := countDown s.st }, s.st == 1)

/-- The key-vector port: all 16 entries at once (R316). -/
def writeKeys (keys : Vector Bool 16) (s : State) : State := { s with keys := keys }

/-- The quirk port: any of the three fields (R319). -/
def writeQuirks (shift loadStore : Option QuirkMode) (wrap : Option WrapPolicy) (s : State) : State :=
  { s with quirks := ⟨shift.getD s.quirks.shift, loadStore.getD s.quirks.loadStore, wrap.getD s.quirks.wrap⟩ }

/-- The framebuffer read port (R318). -/
def readFramebuffer (s : State) : Framebuffer := s.fb

/-- An operation of the host on a constructed core (R311). -/
inductive HostOp where
  | init
  | load (bytes : List Byte)
  | step
  | tickTimers
  | writeKeys (keys : Vector Bool 16)
  | writeQuirks (shift loadStore : Option QuirkMode) (wrap : Option WrapPolicy)
  | readFramebuffer
deriving DecidableEq, Repr

/-- What an operation returns (R311). -/
inductive HostOutput where
  | unit
  | load (r : LoadResult)
  | step (o : StepOutput)
  | cue (c : Bool)
  | framebuffer (fb : Framebuffer)
deriving DecidableEq, Repr

/-- The state a step leaves. -/
def stepState (s : State) : State :=
  match step s with
  | .next t => t
  | .fault _ => s
  | .refused _ => s

/-- One host operation (R311): its effect and its output. -/
def hostStep (op : HostOp) (s : State) : State × HostOutput :=
  match op with
  | .init => (init s, .unit)
  | .load bytes => ((load bytes s).1, .load (load bytes s).2)
  | .step => (stepState s, .step (stepOutput s))
  | .tickTimers => ((tickTimers s).1, .cue (tickTimers s).2)
  | .writeKeys keys => (writeKeys keys s, .unit)
  | .writeQuirks a b c => (writeQuirks a b c s, .unit)
  | .readFramebuffer => (s, .framebuffer (readFramebuffer s))

/-- The state after a sequence of host operations, in the host's order (R310). -/
def runOps : List HostOp → State → State
  | [], s => s
  | op :: ops, s => runOps ops (hostStep op s).1

end Sys2Proof.Machine
end

