-- ==== Sys2Proof/Safety.lean ====
section
/-!
DEFINITION. What claims about runs are said in: a safe state, the invariant of the core, and the states a host can reach.
-/

namespace Sys2Proof.Machine

/-- A safe state: no fault has been raised since the last `init` (R32). -/
def State.safe (s : State) : Bool := s.fault.isNone

/-- The invariant of every reachable state: memory in its canonical form, the pc no higher than the highest target R122
names, and every stack entry, live or stale, even and at most the address after the last word (R122, R133). -/
structure State.Inv (s : State) : Prop where
  memWf : s.mem.wf s.glyphs = true
  pcBound : s.pc.toNat ≤ 0x10FE
  stackBound : ∀ j : Fin 16, s.stack[j.val].toNat ≤ 4096
  stackEven : ∀ j : Fin 16, s.stack[j.val].toNat % 2 = 0

/-- A pending key wait stands on a wait-key word (R278). -/
def State.WaitStands (s : State) : Prop :=
  s.latch ≠ .idle → ∃ x, phase s = .run (.ldVxK x)

/-- The states a host can bring a core to: constructed with any quirks and any glyph table, then any operations in any
order (R310, R340). -/
def Reachable (s : State) : Prop := ∃ q g ops, s = runOps ops (State.construct q g)

end Sys2Proof.Machine
end

