-- ==== Sys2Proof/WellFormed.lean ====
section
/-!
DEFINITION. Which words are instructions at all, said by the rows of spec/opcode_table.json (match and mask) and apart
from the decoder: R84 and R90 in the table's own form. A term of `Instr` needs no check, because each operand has exactly
the width of its field (R82); what can be ill-formed is a word, in family 0, 8, E or F (R90).
-/

namespace Sys2Proof

/-- One row of the opcode table: a word `w` is that instruction's iff `w AND mask = value`. -/
structure OpcodeRow where
  mnemonic : String
  value : Word
  mask : Word
deriving DecidableEq, Repr

/-- The row's match and mask against a word. -/
def OpcodeRow.matchesWord (r : OpcodeRow) (w : Word) : Bool := w &&& r.mask == r.value

/-- The row of spec/opcode_table.json an instruction stands in. -/
def Instr.row : Instr → OpcodeRow
  | .cls => ⟨"CLS", 0x00E0, 0xFFFF⟩
  | .ret => ⟨"RET", 0x00EE, 0xFFFF⟩
  | .jp _ => ⟨"JP", 0x1000, 0xF000⟩
  | .call _ => ⟨"CALL", 0x2000, 0xF000⟩
  | .seImm _ _ => ⟨"SE_IMM", 0x3000, 0xF000⟩
  | .sneImm _ _ => ⟨"SNE_IMM", 0x4000, 0xF000⟩
  | .seReg _ _ => ⟨"SE_REG", 0x5000, 0xF000⟩
  | .ldImm _ _ => ⟨"LD_IMM", 0x6000, 0xF000⟩
  | .addImm _ _ => ⟨"ADD_IMM", 0x7000, 0xF000⟩
  | .ldReg _ _ => ⟨"LD_REG", 0x8000, 0xF00F⟩
  | .orReg _ _ => ⟨"OR", 0x8001, 0xF00F⟩
  | .andReg _ _ => ⟨"AND", 0x8002, 0xF00F⟩
  | .xorReg _ _ => ⟨"XOR", 0x8003, 0xF00F⟩
  | .addReg _ _ => ⟨"ADD_REG", 0x8004, 0xF00F⟩
  | .sub _ _ => ⟨"SUB", 0x8005, 0xF00F⟩
  | .shr _ _ => ⟨"SHR", 0x8006, 0xF00F⟩
  | .subn _ _ => ⟨"SUBN", 0x8007, 0xF00F⟩
  | .shl _ _ => ⟨"SHL", 0x800E, 0xF00F⟩
  | .sneReg _ _ => ⟨"SNE_REG", 0x9000, 0xF000⟩
  | .ldI _ => ⟨"LD_I", 0xA000, 0xF000⟩
  | .jpV0 _ => ⟨"JP_V0", 0xB000, 0xF000⟩
  | .rnd _ _ => ⟨"RND", 0xC000, 0xF000⟩
  | .drw _ _ _ => ⟨"DRW", 0xD000, 0xF000⟩
  | .skp _ => ⟨"SKP", 0xE09E, 0xF0FF⟩
  | .sknp _ => ⟨"SKNP", 0xE0A1, 0xF0FF⟩
  | .ldVxDt _ => ⟨"LD_VX_DT", 0xF007, 0xF0FF⟩
  | .ldVxK _ => ⟨"LD_VX_K", 0xF00A, 0xF0FF⟩
  | .ldDtVx _ => ⟨"LD_DT_VX", 0xF015, 0xF0FF⟩
  | .ldStVx _ => ⟨"LD_ST_VX", 0xF018, 0xF0FF⟩
  | .addIVx _ => ⟨"ADD_I_VX", 0xF01E, 0xF0FF⟩
  | .ldFVx _ => ⟨"LD_F_VX", 0xF029, 0xF0FF⟩
  | .ldBVx _ => ⟨"LD_B_VX", 0xF033, 0xF0FF⟩
  | .ldMiVx _ => ⟨"LD_MI_VX", 0xF055, 0xF0FF⟩
  | .ldVxMi _ => ⟨"LD_VX_MI", 0xF065, 0xF0FF⟩

/-- The rows of the families that the top nibble alone selects, and of family 0 (R83, R85). -/
def plainRows : List OpcodeRow :=
  [Instr.row .cls, Instr.row .ret, Instr.row (.jp 0), Instr.row (.call 0), Instr.row (.seImm 0 0),
   Instr.row (.sneImm 0 0), Instr.row (.seReg 0 0), Instr.row (.ldImm 0 0), Instr.row (.addImm 0 0),
   Instr.row (.sneReg 0 0), Instr.row (.ldI 0), Instr.row (.jpV0 0), Instr.row (.rnd 0 0), Instr.row (.drw 0 0 0)]

/-- The rows of family 8 (R87). -/
def family8Rows : List OpcodeRow :=
  [Instr.row (.ldReg 0 0), Instr.row (.orReg 0 0), Instr.row (.andReg 0 0), Instr.row (.xorReg 0 0),
   Instr.row (.addReg 0 0), Instr.row (.sub 0 0), Instr.row (.shr 0 0), Instr.row (.subn 0 0), Instr.row (.shl 0 0)]

/-- The rows of families E and F (R88, R89). -/
def familyEFRows : List OpcodeRow :=
  [Instr.row (.skp 0), Instr.row (.sknp 0), Instr.row (.ldVxDt 0), Instr.row (.ldVxK 0), Instr.row (.ldDtVx 0),
   Instr.row (.ldStVx 0), Instr.row (.addIVx 0), Instr.row (.ldFVx 0), Instr.row (.ldBVx 0), Instr.row (.ldMiVx 0),
   Instr.row (.ldVxMi 0)]

/-- The opcode table, 34 rows (R2, R84). -/
def opcodeTable : List OpcodeRow := plainRows ++ family8Rows ++ familyEFRows

/-- A word is well-formed iff some row of the table matches it; the other words are the unknown ones (R90). -/
def Word.wellFormed (w : Word) : Bool := opcodeTable.any fun r => r.matchesWord w

end Sys2Proof
end

