-- ==== Sys2Proof/Certificates/Slice0/Obligations.lean ====
section
/-!
DEFINITION. The statements for the provers, and the vocabulary they are said in: which words an instruction has, what a
frame keeps, which pixels a sprite covers, which condition raises which fault. Numbers are said in exact arithmetic on
naturals, as the rules say them (R8).
-/

namespace Sys2Proof.Machine

/-! ## Vocabulary -/

/-- The word of number `wd` is instruction `i`'s, and the one the encoder spells it with. -/
def EncodedAs (wd : Nat) (i : Instr) : Prop :=
  decodeWord (BitVec.ofNat 16 wd) = .ok i ∧ encode i = BitVec.ofNat 16 wd

/-- Every byte of memory reads as before. -/
def KeepsMem (s t : State) : Prop := ∀ a, t.read a = s.read a

/-- Every byte outside the `n` at `a` reads as before. -/
def KeepsMemOutside (a n : Nat) (s t : State) : Prop := ∀ c, c < a ∨ a + n ≤ c → t.read c = s.read c

/-- Every register but those named keeps its value. -/
def KeepsRegs (except : List RegIdx) (s t : State) : Prop := ∀ r, r ∉ except → t.reg r = s.reg r

/-- All but the registers, the pc and memory keeps its value. -/
structure KeepsRest (s t : State) : Prop where
  idx : t.idx = s.idx
  stack : t.stack = s.stack
  sp : t.sp = s.sp
  dt : t.dt = s.dt
  st : t.st = s.st
  fb : t.fb = s.fb
  keys : t.keys = s.keys
  latch : t.latch = s.latch
  quirks : t.quirks = s.quirks
  fault : t.fault = s.fault
  glyphs : t.glyphs = s.glyphs
  draws : t.draws = s.draws

/-- The frame of an instruction that stores nothing and writes no register but those named. -/
def Frame (except : List RegIdx) (s t : State) : Prop := KeepsRegs except s t ∧ KeepsMem s t ∧ KeepsRest s t

/-- The state is `s` with the fault recorded and nothing else changed, the pc among it. -/
def OnlyFault (k : FaultKind) (s t : State) : Prop := t = { s with fault := some k }

/-- The word a step in state `s` would fetch (R114). -/
def fetchedWord (s : State) : Nat := (s.read s.pc.toNat).toNat * 256 + (s.read (s.pc.toNat + 1)).toNat

/-- A step in state `s` fetches: no fault, pc even and at most 4094 (R111 to R113). -/
def Fetches (s : State) : Prop := s.fault = none ∧ s.pc.toNat % 2 = 0 ∧ s.pc.toNat ≤ 4094

/-- The word numbers no instruction has (R90). -/
def Unassigned (wd : Nat) : Prop :=
  (wd / 4096 = 0x0 ∧ wd ≠ 0x00E0 ∧ wd ≠ 0x00EE) ∨
  (wd / 4096 = 0x8 ∧ wd % 16 ∈ [0x8, 0x9, 0xA, 0xB, 0xC, 0xD, 0xF]) ∨
  (wd / 4096 = 0xE ∧ wd % 256 ∉ [0x9E, 0xA1]) ∨
  (wd / 4096 = 0xF ∧ wd % 256 ∉ [0x07, 0x0A, 0x15, 0x18, 0x1E, 0x29, 0x33, 0x55, 0x65])

/-- The one fault condition an instruction has, if it has one and it holds (R300, R304). -/
def instrFault (i : Instr) (s : State) : Option FaultKind :=
  match i with
  | .call _ => if s.sp.val = 16 then some .stackOverflow else none
  | .ret => if s.sp.val = 0 then some .stackUnderflow else none
  | .drw _ _ n => if n.val ≠ 0 ∧ s.idx.toNat + n.val - 1 > 4095 then some .dataOutOfBounds else none
  | .ldBVx _ => if s.idx.toNat + 2 > 4095 then some .dataOutOfBounds else none
  | .ldMiVx x => if s.idx.toNat + x.val > 4095 then some .dataOutOfBounds else none
  | .ldVxMi x => if s.idx.toNat + x.val > 4095 then some .dataOutOfBounds else none
  | .skp x => if (s.reg x).toNat > 15 then some .keyIndexOutOfRange else none
  | .sknp x => if (s.reg x).toNat > 15 then some .keyIndexOutOfRange else none
  | _ => none

/-- The fault a step from a state without one raises, in the order of R304. -/
def stepFault (s : State) : Option FaultKind :=
  if s.pc.toNat % 2 = 1 then some .misalignedFetch
  else if s.pc.toNat > 4094 then some .fetchOutOfBounds
  else match decodeWord (BitVec.ofNat 16 (fetchedWord s)) with
    | .error _ => none
    | .ok i => instrFault i s

/-- The registers an instruction may write, the flag among them (R21, the V and VF columns of R35). -/
def WritesReg (i : Instr) (r : RegIdx) : Prop :=
  match i with
  | .ldImm x _ | .addImm x _ | .rnd x _ => r = x
  | .ldReg x _ | .orReg x _ | .andReg x _ | .xorReg x _ => r = x
  | .addReg x _ | .sub x _ | .subn x _ | .shr x _ | .shl x _ => r = x ∨ r = 15
  | .drw _ _ _ => r = 15
  | .ldVxDt x | .ldVxK x => r = x
  | .ldVxMi x => r ≤ x
  | _ => False

/-- Sprite bit of row `r` and column `c` at I: bit `7 - c` of the byte at `I + r` (R234, R235). -/
def spriteBit (s : State) (r c : Nat) : Bool := (s.read (s.idx.toNat + r)).getLsbD (7 - c)

/-- The draw covers pixel `p`: a set bit's target lands on it, wrapped (R236) or on the screen as it is (R237). -/
def Covers (x y : RegIdx) (n : Fin 16) (s : State) (p : Pixel) : Prop :=
  ∃ r c, r < n.val ∧ c < 8 ∧ spriteBit s r c = true ∧
    match s.quirks.wrap with
    | .wrapBoth => p.1.val = ((s.reg x).toNat + c) % 64 ∧ p.2.val = ((s.reg y).toNat + r) % 32
    | .clip => p.1.val = (s.reg x).toNat + c ∧ p.2.val = (s.reg y).toNat + r

/-- The bytes a draw of height `n` reads exist (R10, R234). -/
def SpriteInRange (n : Fin 16) (s : State) : Prop := n.val = 0 ∨ s.idx.toNat + n.val - 1 ≤ 4095

/-- What one draw does to framebuffer and flag, said pixel by pixel (R238, R240). -/
def Drawn (x y : RegIdx) (n : Fin 16) (s t : State) : Prop :=
  (∀ p, (Covers x y n s p → Framebuffer.pixel t.fb p = !(Framebuffer.pixel s.fb p)) ∧
    (¬ Covers x y n s p → Framebuffer.pixel t.fb p = Framebuffer.pixel s.fb p)) ∧
  ((∃ p, Covers x y n s p ∧ Framebuffer.pixel s.fb p = true) → t.reg 15 = 1) ∧
  ((¬ ∃ p, Covers x y n s p ∧ Framebuffer.pixel s.fb p = true) → t.reg 15 = 0)

/-- The shift source in the rule's words (R171, R172). -/
def IsShiftSource (s : State) (x y : RegIdx) (src : Byte) : Prop :=
  (s.quirks.shift = .legacy → src = s.reg y) ∧ (s.quirks.shift = .revised → src = s.reg x)

/-- I after a dump or load of `V0..Vx` (R204, R205). -/
def IdxMoved (x : RegIdx) (s t : State) : Prop :=
  (s.quirks.loadStore = .legacy → t.idx.toNat = (s.idx.toNat + x.val + 1) % 65536) ∧
  (s.quirks.loadStore = .revised → t.idx = s.idx)

end Sys2Proof.Machine

open Sys2Proof Sys2Proof.Machine

/-! ## Reset, construction and the host's operations -/

/-- R341, R342, R343: what `init` leaves, from any state, and that it returns nothing; and that no other operation clears
a fault. `s.glyphs` is this machine's value of the parameter `GLYPHS`, whatever its bytes (log entry 4). The draw counter
is the model's own field (log entry 2) and no part of the rule. -/
def Obligations.InitSetsEveryElement : Prop :=
  ∀ s : State,
    (∀ r, (init s).reg r = 0) ∧ (init s).idx = 0 ∧ (init s).pc = 0x200 ∧
    (∀ j : Fin 16, (init s).stack[j.val] = 0) ∧ (init s).sp = 0 ∧ (init s).dt = 0 ∧ (init s).st = 0 ∧
    (∀ p, Framebuffer.pixel (init s).fb p = false) ∧ (∀ k : Fin 16, (init s).keys[k.val] = false) ∧
    (init s).latch = .idle ∧ (init s).fault = none ∧ (init s).quirks = s.quirks ∧
    (init s).glyphs = s.glyphs ∧
    (∀ (d j : Nat) (_ : d < 16) (_ : j < 5), (init s).read (0x050 + 5 * d + j) = s.glyphs[5 * d + j]) ∧
    (∀ a, a < 0x050 ∨ (0x0A0 ≤ a ∧ a ≤ 4095) → (init s).read a = 0) ∧
    hostStep .init s = (init s, .unit) ∧
    (∀ op k, op ≠ .init → s.fault = some k → (hostStep op s).1.fault = some k)

/-- R344, which the spec marks as derived: the state after `init` does not depend on the one before, `Q` aside, and `load`
then `init` restores it. Two states of one machine have the same glyph table, a parameter of the machine (log entry 4);
the draw counter is the model's own field (log entry 2): the first clause leaves it out. -/
def Obligations.InitIsCompleteAndIdempotent : Prop :=
  (∀ s s' : State, s.quirks = s'.quirks → s.glyphs = s'.glyphs → { init s with draws := 0 } = { init s' with draws := 0 }) ∧
  (∀ s : State, init (init s) = init s) ∧
  (∀ (s : State) (bytes : List Byte), init (load bytes (init s)).1 = init s)

/-- The constructed state is the state after `init` (R340, R341), with the given quirks and glyph table, any of them; reset
is it at the OPEN parameters (R6). That construction takes the glyph table and the state keeps it is the model's form of
the parameter `GLYPHS` (log entry 4), and that reset stands for the OPEN initial quirks and table by constants without a
body is the model's reading (log entries 3 and 4). -/
def Obligations.ConstructedStateIsInitState : Prop :=
  (∀ q g, init (State.construct q g) = State.construct q g ∧ (State.construct q g).quirks = q ∧
    (State.construct q g).glyphs = g) ∧
  State.reset = State.construct ⟨Config.shiftQuirk, Config.loadStoreQuirk, Config.wrapQuirk⟩ Config.glyphs ∧
  State.reset.pc.toNat = 0x200 ∧ State.reset.fault = none

/-- R345, R346: `load` copies the image to 0x200 upward and changes nothing else, or refuses one that is too long. -/
def Obligations.LoadCopiesImageOnly : Prop :=
  ∀ (s : State) (bytes : List Byte),
    (bytes.length ≤ 3584 →
      (load bytes s).2 = .ok ∧
      (∀ (j : Nat) (h : j < bytes.length), (load bytes s).1.read (0x200 + j) = bytes[j]) ∧
      KeepsMemOutside 0x200 bytes.length s (load bytes s).1 ∧
      { (load bytes s).1 with mem := s.mem } = s) ∧
    (bytes.length > 3584 → load bytes s = (s, .imageTooLarge))

/-- R312, R313, R314, R315: the tick, from any state, and that no other operation emits a cue. -/
def Obligations.TickCountsBothTimersDown : Prop :=
  ∀ s : State,
    (tickTimers s).1.dt.toNat = s.dt.toNat - 1 ∧ (tickTimers s).1.st.toNat = s.st.toNat - 1 ∧
    ((tickTimers s).2 = true ↔ s.st.toNat = 1) ∧
    { (tickTimers s).1 with dt := s.dt, st := s.st } = s ∧
    (∀ op, op ≠ .tickTimers → ∀ c, (hostStep op s).2 ≠ .cue c)

/-- R316, R318, R319: the key port writes all 16 entries and nothing else, the quirk port any of its fields and nothing
else, a framebuffer read changes nothing, and no step writes keys or quirks: what the host wrote holds at every later
step. -/
def Obligations.PortsTouchOnlyTheirState : Prop :=
  ∀ s : State,
    (∀ keys, (hostStep (.writeKeys keys) s).1.keys = keys ∧
      { (hostStep (.writeKeys keys) s).1 with keys := s.keys } = s) ∧
    (∀ a b c, (hostStep (.writeQuirks a b c) s).1.quirks.shift = a.getD s.quirks.shift ∧
      (hostStep (.writeQuirks a b c) s).1.quirks.loadStore = b.getD s.quirks.loadStore ∧
      (hostStep (.writeQuirks a b c) s).1.quirks.wrap = c.getD s.quirks.wrap ∧
      { (hostStep (.writeQuirks a b c) s).1 with quirks := s.quirks } = s) ∧
    hostStep .readFramebuffer s = (s, .framebuffer s.fb) ∧
    (∀ t, step s = .next t → t.keys = s.keys ∧ t.quirks = s.quirks)

/-! ## Encoding -/

/-- Words written out from the encodings of the opcode table, one or more of each format, decode to their instructions. -/
def Obligations.DecodeWrittenOutWords : Prop :=
  decodeWord 0b0000000011100000 = .ok .cls ∧
  decodeWord 0b0000000011101110 = .ok .ret ∧
  decodeWord 0b0001101010111100 = .ok (.jp 0xABC) ∧
  decodeWord 0b0011001100000101 = .ok (.seImm 3 0x05) ∧
  decodeWord 0b0101000100101111 = .ok (.seReg 1 2) ∧
  decodeWord 0b0110000000001010 = .ok (.ldImm 0 0x0A) ∧
  decodeWord 0b1000000000010110 = .ok (.shr 0 1) ∧
  decodeWord 0b1000000000011110 = .ok (.shl 0 1) ∧
  decodeWord 0b1010001100000000 = .ok (.ldI 0x300) ∧
  decodeWord 0b1100000100001111 = .ok (.rnd 1 0x0F) ∧
  decodeWord 0b1101000000010101 = .ok (.drw 0 1 5) ∧
  decodeWord 0b1110010110011110 = .ok (.skp 5) ∧
  decodeWord 0b1111001100001010 = .ok (.ldVxK 3) ∧
  decodeWord 0b1111000101010101 = .ok (.ldMiVx 1)

/-- Decode of encode is the instruction, for every instruction at every operand value: no bit of an encoding is dropped.
A term of `Instr` is always well-formed (R80 to R82). -/
def Obligations.DecodeOfEncodeIsIdentity : Prop := ∀ i : Instr, decodeWord (encode i) = .ok i

/-- Encode of decode is the word, but for the low nibble of families 5 and 9, which is not examined and spelled 0 (R86). -/
def Obligations.EncodeOfDecodeIsTheWord : Prop :=
  ∀ (w : Word) (i : Instr), decodeWord w = .ok i →
    ((w.toNat / 4096 ≠ 5 ∧ w.toNat / 4096 ≠ 9) → encode i = w) ∧
    ((w.toNat / 4096 = 5 ∨ w.toNat / 4096 = 9) → (encode i).toNat = w.toNat - w.toNat % 16)

/-- R92, which the spec marks as derived: decoding is total and unique, against the opcode table's own match and mask: a word decodes to an instruction
exactly when a row matches it, to one of that row, and no word matches two rows. -/
def Obligations.DecoderFollowsOpcodeTable : Prop :=
  (∀ (w : Word) (i : Instr), decodeWord w = .ok i → i.row.matchesWord w = true ∧ i.row ∈ opcodeTable) ∧
  (∀ w : Word, decodeWord w = .error (.unknown w) ↔ Word.wellFormed w = false) ∧
  (∀ w : Word, (∃ i, decodeWord w = .ok i) ↔ Word.wellFormed w = true) ∧
  (∀ (w : Word) (a b : OpcodeRow), a ∈ opcodeTable → b ∈ opcodeTable → a.matchesWord w = true →
    b.matchesWord w = true → a = b)

/-- R90, R117, R305: the unassigned words are exactly the listed ones, and a step on one reports it with its address, moves
the pc by 2 and changes nothing else. -/
def Obligations.UnknownWordsAreReportedAndPassed : Prop :=
  (∀ w : Word, Unassigned w.toNat ↔ decodeWord w = .error (.unknown w)) ∧
  (∀ s : State, Fetches s → Unassigned (fetchedWord s) →
    step s = .next { s with pc := s.pc + 2 } ∧ (s.pc + 2).toNat = s.pc.toNat + 2 ∧
    stepOutput s = ⟨false, .unknown (BitVec.ofNat 16 (fetchedWord s)) s.pc⟩)

/-! ## The step -/

/-- R110, R114: when the two bytes at the pc, the first the high one, decode to an instruction, a step is that
instruction's execution and nothing around it. -/
def Obligations.StepRunsTheDecodedInstruction : Prop :=
  ∀ (s : State) (i : Instr), Fetches s → decodeWord (BitVec.ofNat 16 (fetchedWord s)) = .ok i → step s = exec i s

/-- The host's placing of a word makes the next step run it, from every state (log entry 20). -/
def Obligations.PlacedWordIsTheNextInstruction : Prop :=
  ∀ (s : State) (w : Nat) (i : Instr), decodeTableWord 16 w = some i →
    step (s.withFetchWord 16 w) = exec i (s.withFetchWord 16 w)

/-- R111: in the fault state a step changes nothing and returns the fault. -/
def Obligations.FaultStateStepChangesNothing : Prop :=
  ∀ (s : State) (k : FaultKind), s.fault = some k → step s = .next s ∧ stepOutput s = ⟨false, .faulted k⟩

/-- R112, R113: an odd pc raises MisalignedFetch, whatever else it is; an even one above 4094 FetchOutOfBounds. -/
def Obligations.BadFetchAddressFaults : Prop :=
  ∀ s : State, s.fault = none →
    (s.pc.toNat % 2 = 1 → step s = .next { s with fault := some .misalignedFetch } ∧
      stepOutput s = ⟨false, .faulted .misalignedFetch⟩) ∧
    (s.pc.toNat % 2 = 0 → s.pc.toNat > 4094 → step s = .next { s with fault := some .fetchOutOfBounds } ∧
      stepOutput s = ⟨false, .faulted .fetchOutOfBounds⟩)

/-- R300, R304: a step from a state without fault raises exactly the fault whose condition holds, in the order of
priority, and none otherwise; and the kinds' codes. -/
def Obligations.StepRaisesExactlyTheListedFaults : Prop :=
  (∀ s : State, s.fault = none →
    ∃ t, step s = .next t ∧ t.fault = stepFault s ∧ (∀ k, stepFault s = some k → OnlyFault k s t)) ∧
  (∀ (s : State) (k : FaultKind), s.fault = some k → ∃ t, step s = .next t ∧ t.fault = some k) ∧
  [FaultKind.stackOverflow, .stackUnderflow, .fetchOutOfBounds, .misalignedFetch, .dataOutOfBounds,
    .keyIndexOutOfRange].map FaultKind.code = [1, 2, 3, 4, 5, 6]

/-- R301: when a step raises a fault, the fault is recorded, nothing else changes, the pc among it, and the step returns
the fault. -/
def Obligations.FaultEntryChangesOnlyFault : Prop :=
  ∀ (s t : State) (k : FaultKind), s.fault = none → step s = .next t → t.fault = some k →
    OnlyFault k s t ∧ stepOutput s = ⟨false, .faulted k⟩

/-- The same for an instruction on its own: it leaves a fault exactly when its one condition holds, and what it then
answers is the state before but for the fault (the no-write half of R121; what an instruction writes otherwise is said
instruction by instruction below). -/
def Obligations.InstructionFaultsExactlyAndThenOnlyRecordsIt : Prop :=
  ∀ (i : Instr) (s : State), s.fault = none →
    ∃ t, exec i s = .next t ∧ (t.fault ≠ none ↔ instrFault i s ≠ none) ∧
      (∀ k, instrFault i s = some k → OnlyFault k s t)

/-- R302: the fault state is sticky under any number of steps, each returning the fault, and under any host operations but
`init`, which clears it. -/
def Obligations.OnlyInitLeavesTheFaultState : Prop :=
  ∀ (s : State) (k : FaultKind), s.fault = some k →
    (∀ n, Sys2Proof.core.run n s = .next s) ∧ stepOutput s = ⟨false, .faulted k⟩ ∧
    (∀ ops, HostOp.init ∉ ops → (runOps ops s).fault = some k) ∧
    (init s).fault = none

/-- A step always answers a next state, and so does every instruction: no stop and no refusal. That a raised fault is a next
state is the model's reading of R301 and R302 (log entry 1); that `exec` answers also in a fault state and at a pc no step
fetches from is the model's choice (log entries 22 and 28). -/
def Obligations.StepAlwaysAnswersNext : Prop :=
  (∀ s : State, ∃ t, step s = .next t) ∧ (∀ (i : Instr) (s : State), ∃ t, exec i s = .next t)

/-- R118: the dirty output is true iff the step executed CLS or DRW; a fault makes it false. -/
def Obligations.DirtyExactlyOnClsAndDrw : Prop :=
  ∀ s : State, (stepOutput s).dirty = true ↔
    Fetches s ∧ (decodeWord (BitVec.ofNat 16 (fetchedWord s)) = .ok .cls ∨
      ∃ x y n, decodeWord (BitVec.ofNat 16 (fetchedWord s)) = .ok (.drw x y n) ∧ SpriteInRange n s)

/-- R119: the event is Faulted exactly when the step leaves a fault, Unknown exactly when it fetched a word that is no
instruction, and None otherwise. -/
def Obligations.StepEventTellsTheOutcome : Prop :=
  ∀ s t : State, step s = .next t →
    (∀ k, (stepOutput s).event = .faulted k ↔ t.fault = some k) ∧
    (∀ w a, (stepOutput s).event = .unknown w a ↔
      Fetches s ∧ Unassigned (fetchedWord s) ∧ w.toNat = fetchedWord s ∧ a = s.pc) ∧
    ((stepOutput s).event = .none ↔ t.fault = none ∧ ∃ i, phase s = .run i)

/-! ## Invariants and whole-machine rules -/

/-- Every step keeps the invariant: memory in canonical form, the pc and the stack entries within the bounds of R122. -/
def Obligations.StepKeepsInvariant : Prop := ∀ s t : State, s.Inv → step s = .next t → t.Inv

/-- The invariant holds at reset, and of a machine constructed with any quirks and any glyph table. -/
def Obligations.ResetMeetsInvariant : Prop := State.reset.Inv ∧ ∀ q g, (State.construct q g).Inv

/-- Every operation of the host keeps the invariant, `step` and `load` among them, from every state that has it (R310). -/
def Obligations.EveryHostOperationKeepsInvariant : Prop := ∀ (s : State) (op : HostOp), s.Inv → (hostStep op s).1.Inv

/-- The invariant holds of every state a host can reach, for every interleaving of its operations (R310, R353). -/
def Obligations.EveryReachableStateMeetsInvariant : Prop := ∀ s, Reachable s → s.Inv

/-- A pending key wait stands on its wait-key word: after every step and every host operation but `load` (R278). -/
def Obligations.PendingWaitStaysOnItsWord : Prop :=
  (∀ s t : State, s.WaitStands → step s = .next t → t.WaitStands) ∧
  (∀ (s : State) (op : HostOp), s.WaitStands → (∀ bytes, op ≠ .load bytes) → (hostStep op s).1.WaitStands) ∧
  (∀ q g, (State.construct q g).WaitStands)

/-- Each instruction writes only the state the columns of R35 give it: of any instruction that answers a next state. The
key vector, the quirks and the glyph table (log entry 4) are written by none. The draw counter is the model's own field
(log entry 2). -/
def Obligations.InstructionsWriteOnlyTheirState : Prop :=
  ∀ (i : Instr) (s t : State), exec i s = .next t →
    (∀ r, ¬ WritesReg i r → t.reg r = s.reg r) ∧
    ((∀ n, i ≠ .ldI n) → (∀ x, i ≠ .addIVx x ∧ i ≠ .ldFVx x) →
      ((∀ x, i ≠ .ldMiVx x ∧ i ≠ .ldVxMi x) ∨ s.quirks.loadStore = .revised) → t.idx = s.idx) ∧
    ((∀ n, i ≠ .call n) → t.stack = s.stack) ∧ ((∀ n, i ≠ .call n) → i ≠ .ret → t.sp = s.sp) ∧
    ((∀ x, i ≠ .ldDtVx x) → t.dt = s.dt) ∧ ((∀ x, i ≠ .ldStVx x) → t.st = s.st) ∧
    (i ≠ .cls → (∀ x y n, i ≠ .drw x y n) → t.fb = s.fb) ∧
    ((∀ x, i ≠ .ldVxK x) → t.latch = s.latch) ∧
    ((∀ x, i ≠ .ldBVx x ∧ i ≠ .ldMiVx x) → KeepsMem s t) ∧
    t.keys = s.keys ∧ t.quirks = s.quirks ∧ t.glyphs = s.glyphs ∧
    ((∀ x kk, i ≠ .rnd x kk) → t.draws = s.draws)

/-- No step reads the sound timer: with another value in ST it does, for the same draw, the same to all else and returns
the same (R27). That the two steps of an RND draw the same byte, since both states hold the same draw counter, is the
model's form of the draw and not the hardware's promise (log entry 2). -/
def Obligations.SoundTimerIsReadByNoStep : Prop :=
  ∀ (s t : State) (b : Byte), step s = .next t →
    ∃ t', step { s with st := b } = .next t' ∧ { t' with st := t.st } = t ∧
      stepOutput { s with st := b } = stepOutput s

/-! ## Control transfer -/

/-- R134, R135, R136, R137: the four register skips, each with its words; the low nibble of 5xy? and 9xy? is not examined. -/
def Obligations.ComparisonSkips : Prop :=
  ∀ (x y : RegIdx) (kk : Byte) (s : State),
    (EncodedAs (0x3000 + 256 * x + kk.toNat) (.seImm x kk) ∧
      ∃ t, exec (.seImm x kk) s = .next t ∧ Frame [] s t ∧
        t.pc = (if s.reg x = kk then s.pc + 4 else s.pc + 2)) ∧
    (EncodedAs (0x4000 + 256 * x + kk.toNat) (.sneImm x kk) ∧
      ∃ t, exec (.sneImm x kk) s = .next t ∧ Frame [] s t ∧
        t.pc = (if s.reg x ≠ kk then s.pc + 4 else s.pc + 2)) ∧
    ((∀ z, z < 16 → decodeWord (BitVec.ofNat 16 (0x5000 + 256 * x + 16 * y + z)) = .ok (.seReg x y)) ∧
      ∃ t, exec (.seReg x y) s = .next t ∧ Frame [] s t ∧
        t.pc = (if s.reg x = s.reg y then s.pc + 4 else s.pc + 2)) ∧
    ((∀ z, z < 16 → decodeWord (BitVec.ofNat 16 (0x9000 + 256 * x + 16 * y + z)) = .ok (.sneReg x y)) ∧
      ∃ t, exec (.sneReg x y) s = .next t ∧ Frame [] s t ∧
        t.pc = (if s.reg x ≠ s.reg y then s.pc + 4 else s.pc + 2))

/-- R132, R138: the two jumps; the offset register is V0 whatever the word's second nibble, and the sum is exact. -/
def Obligations.JumpTargets : Prop :=
  ∀ (nnn : Addr12) (s : State),
    (EncodedAs (0x1000 + nnn.toNat) (.jp nnn) ∧
      ∃ t, exec (.jp nnn) s = .next t ∧ Frame [] s t ∧ t.pc.toNat = nnn.toNat) ∧
    (EncodedAs (0xB000 + nnn.toNat) (.jpV0 nnn) ∧
      ∃ t, exec (.jpV0 nnn) s = .next t ∧ Frame [] s t ∧ t.pc.toNat = nnn.toNat + (s.reg 0).toNat)

/-- R133: CALL pushes `pc + 2` at the depth counter and jumps, or faults on a full stack with nothing written. -/
def Obligations.CallPushesReturnAddress : Prop :=
  ∀ (nnn : Addr12) (s : State),
    EncodedAs (0x2000 + nnn.toNat) (.call nnn) ∧
    (s.sp.val < 16 →
      ∃ t, exec (.call nnn) s = .next t ∧ t.pc.toNat = nnn.toNat ∧ t.sp.val = s.sp.val + 1 ∧
        (∀ j : Fin 16, t.stack[j.val] = if j.val = s.sp.val then s.pc + 2 else s.stack[j.val]) ∧
        Frame [] { s with stack := t.stack, sp := t.sp } t) ∧
    (s.sp.val = 16 → ∃ t, exec (.call nnn) s = .next t ∧ OnlyFault .stackOverflow s t)

/-- R131: RET pops the pc, the entry keeping its value, or faults on an empty stack. -/
def Obligations.ReturnPopsProgramCounter : Prop :=
  ∀ s : State,
    EncodedAs 0x00EE .ret ∧
    (∀ j : Fin 16, s.sp.val = j.val + 1 →
      ∃ t, exec .ret s = .next t ∧ t.pc = s.stack[j.val] ∧ t.sp.val = j.val ∧ Frame [] { s with sp := t.sp } t) ∧
    (s.sp.val = 0 → ∃ t, exec .ret s = .next t ∧ OnlyFault .stackUnderflow s t)

/-- A call and a return right after it come back to the word after the call, with the depth as before and nothing else
changed but the entry above it, which holds the stale return address (R24, R131, R133). -/
def Obligations.ReturnUndoesCall : Prop :=
  ∀ (nnn : Addr12) (s : State), s.sp.val < 16 →
    ∃ t u, exec (.call nnn) s = .next t ∧ exec .ret t = .next u ∧
      u.pc = s.pc + 2 ∧ u.sp = s.sp ∧
      (∀ j : Fin 16, u.stack[j.val] = if j.val = s.sp.val then s.pc + 2 else s.stack[j.val]) ∧
      Frame [] { s with stack := u.stack } u

/-! ## Registers and ALU -/

/-- R162, R163, R164: immediate set, immediate add (wrapping, no flag) and move. -/
def Obligations.SetAddAndMove : Prop :=
  ∀ (x y : RegIdx) (kk : Byte) (s : State),
    (EncodedAs (0x6000 + 256 * x + kk.toNat) (.ldImm x kk) ∧
      ∃ t, exec (.ldImm x kk) s = .next t ∧ t.reg x = kk ∧ t.pc = s.pc + 2 ∧ Frame [x] s t) ∧
    (EncodedAs (0x7000 + 256 * x + kk.toNat) (.addImm x kk) ∧
      ∃ t, exec (.addImm x kk) s = .next t ∧ (t.reg x).toNat = ((s.reg x).toNat + kk.toNat) % 256 ∧
        t.pc = s.pc + 2 ∧ Frame [x] s t) ∧
    (EncodedAs (0x8000 + 256 * x + 16 * y) (.ldReg x y) ∧
      ∃ t, exec (.ldReg x y) s = .next t ∧ t.reg x = s.reg y ∧ t.pc = s.pc + 2 ∧ Frame [x] s t)

/-- R165, R166, R167: OR, AND and XOR, bit by bit, with no flag change. -/
def Obligations.BitwiseOperations : Prop :=
  ∀ (x y : RegIdx) (s : State),
    (EncodedAs (0x8001 + 256 * x + 16 * y) (.orReg x y) ∧
      ∃ t, exec (.orReg x y) s = .next t ∧
        (∀ k, k < 8 → (t.reg x).getLsbD k = ((s.reg x).getLsbD k || (s.reg y).getLsbD k)) ∧
        t.pc = s.pc + 2 ∧ Frame [x] s t) ∧
    (EncodedAs (0x8002 + 256 * x + 16 * y) (.andReg x y) ∧
      ∃ t, exec (.andReg x y) s = .next t ∧
        (∀ k, k < 8 → (t.reg x).getLsbD k = ((s.reg x).getLsbD k && (s.reg y).getLsbD k)) ∧
        t.pc = s.pc + 2 ∧ Frame [x] s t) ∧
    (EncodedAs (0x8003 + 256 * x + 16 * y) (.xorReg x y) ∧
      ∃ t, exec (.xorReg x y) s = .next t ∧
        (∀ k, k < 8 → (t.reg x).getLsbD k = ((s.reg x).getLsbD k != (s.reg y).getLsbD k)) ∧
        t.pc = s.pc + 2 ∧ Frame [x] s t)

/-- R168, R161: the sum modulo 256 and the carry of the exact sum, the flag written last. -/
def Obligations.AddRegSumAndCarry : Prop :=
  ∀ (x y : RegIdx) (s : State),
    EncodedAs (0x8004 + 256 * x + 16 * y) (.addReg x y) ∧
    ∃ t, exec (.addReg x y) s = .next t ∧
      (x ≠ 15 → (t.reg x).toNat = ((s.reg x).toNat + (s.reg y).toNat) % 256) ∧
      (t.reg 15).toNat = (if (s.reg x).toNat + (s.reg y).toNat > 255 then 1 else 0) ∧
      t.pc = s.pc + 2 ∧ Frame [x, 15] s t

/-- R169, R161: `V[x] - V[y]` modulo 256 and the no-borrow flag, the flag written last. -/
def Obligations.SubDifferenceAndNoBorrow : Prop :=
  ∀ (x y : RegIdx) (s : State),
    EncodedAs (0x8005 + 256 * x + 16 * y) (.sub x y) ∧
    ∃ t, exec (.sub x y) s = .next t ∧
      (x ≠ 15 → (t.reg x).toNat = ((s.reg x).toNat + 256 - (s.reg y).toNat) % 256) ∧
      (t.reg 15).toNat = (if (s.reg x).toNat < (s.reg y).toNat then 0 else 1) ∧
      t.pc = s.pc + 2 ∧ Frame [x, 15] s t

/-- R170, R161: `V[y] - V[x]` modulo 256 and its no-borrow flag, the flag written last. -/
def Obligations.SubnDifferenceAndNoBorrow : Prop :=
  ∀ (x y : RegIdx) (s : State),
    EncodedAs (0x8007 + 256 * x + 16 * y) (.subn x y) ∧
    ∃ t, exec (.subn x y) s = .next t ∧
      (x ≠ 15 → (t.reg x).toNat = ((s.reg y).toNat + 256 - (s.reg x).toNat) % 256) ∧
      (t.reg 15).toNat = (if (s.reg x).toNat > (s.reg y).toNat then 0 else 1) ∧
      t.pc = s.pc + 2 ∧ Frame [x, 15] s t

/-- R171, R161: the source chosen by the shift quirk, halved, its low bit to VF. -/
def Obligations.ShiftRightHalvesSource : Prop :=
  ∀ (x y : RegIdx) (s : State) (src : Byte), IsShiftSource s x y src →
    EncodedAs (0x8006 + 256 * x + 16 * y) (.shr x y) ∧
    ∃ t, exec (.shr x y) s = .next t ∧
      (x ≠ 15 → (t.reg x).toNat = src.toNat / 2) ∧ (t.reg 15).toNat = src.toNat % 2 ∧
      t.pc = s.pc + 2 ∧ Frame [x, 15] s t

/-- R172, R161: the source chosen by the shift quirk, doubled modulo 256, its bit 7 to VF. -/
def Obligations.ShiftLeftDoublesSource : Prop :=
  ∀ (x y : RegIdx) (s : State) (src : Byte), IsShiftSource s x y src →
    EncodedAs (0x800E + 256 * x + 16 * y) (.shl x y) ∧
    ∃ t, exec (.shl x y) s = .next t ∧
      (x ≠ 15 → (t.reg x).toNat = src.toNat * 2 % 256) ∧ (t.reg 15).toNat = src.toNat / 128 ∧
      t.pc = s.pc + 2 ∧ Frame [x, 15] s t

/-- R173, R317: RND masks the drawn byte, whatever it is. That the draw is `Config.randomByte` at the counter, and that
each execution moves the counter by one, is the model's form of a free draw (log entry 2). -/
def Obligations.RandomMasksTheDraw : Prop :=
  ∀ (x : RegIdx) (kk : Byte) (s : State),
    EncodedAs (0xC000 + 256 * x + kk.toNat) (.rnd x kk) ∧
    ∃ t, exec (.rnd x kk) s = .next t ∧
      (∀ k, k < 8 → (t.reg x).getLsbD k = ((Config.randomByte s.draws).getLsbD k && kk.getLsbD k)) ∧
      (kk = 0 → t.reg x = 0) ∧ t.pc = s.pc + 2 ∧ t.draws = s.draws + 1 ∧ Frame [x] { s with draws := t.draws } t

/-! ## Index register and memory -/

/-- R200, R201, R202: setting I, adding to it modulo 65536 with no flag, and the glyph address from all of `V[x]`. -/
def Obligations.IndexRegisterOperations : Prop :=
  ∀ (x : RegIdx) (nnn : Addr12) (s : State),
    (EncodedAs (0xA000 + nnn.toNat) (.ldI nnn) ∧
      ∃ t, exec (.ldI nnn) s = .next t ∧ t.idx.toNat = nnn.toNat ∧ t.pc = s.pc + 2 ∧
        Frame [] { s with idx := t.idx } t) ∧
    (EncodedAs (0xF01E + 256 * x) (.addIVx x) ∧
      ∃ t, exec (.addIVx x) s = .next t ∧ t.idx.toNat = (s.idx.toNat + (s.reg x).toNat) % 65536 ∧
        t.pc = s.pc + 2 ∧ Frame [] { s with idx := t.idx } t) ∧
    (EncodedAs (0xF029 + 256 * x) (.ldFVx x) ∧
      ∃ t, exec (.ldFVx x) s = .next t ∧ t.idx.toNat = 0x050 + 5 * (s.reg x).toNat ∧ t.pc = s.pc + 2 ∧
        Frame [] { s with idx := t.idx } t)

/-- R203: three decimal digits at I, I+1, I+2, or the fault with nothing written. -/
def Obligations.StoreBcdDigits : Prop :=
  ∀ (x : RegIdx) (s : State),
    EncodedAs (0xF033 + 256 * x) (.ldBVx x) ∧
    (s.idx.toNat + 2 ≤ 4095 →
      ∃ t, exec (.ldBVx x) s = .next t ∧
        (t.read s.idx.toNat).toNat = (s.reg x).toNat / 100 ∧
        (t.read (s.idx.toNat + 1)).toNat = (s.reg x).toNat / 10 % 10 ∧
        (t.read (s.idx.toNat + 2)).toNat = (s.reg x).toNat % 10 ∧
        KeepsMemOutside s.idx.toNat 3 s t ∧ KeepsRegs [] s t ∧ KeepsRest s t ∧ t.pc = s.pc + 2) ∧
    (s.idx.toNat + 2 > 4095 → ∃ t, exec (.ldBVx x) s = .next t ∧ OnlyFault .dataOutOfBounds s t)

/-- R204: V0 to Vx stored at I upward, I moved under legacy only, or the fault with nothing written. -/
def Obligations.RegisterDump : Prop :=
  ∀ (x : RegIdx) (s : State),
    EncodedAs (0xF055 + 256 * x) (.ldMiVx x) ∧
    (s.idx.toNat + x.val ≤ 4095 →
      ∃ t, exec (.ldMiVx x) s = .next t ∧
        (∀ k : RegIdx, k ≤ x → t.read (s.idx.toNat + k.val) = s.reg k) ∧
        KeepsMemOutside s.idx.toNat (x.val + 1) s t ∧ KeepsRegs [] s t ∧
        IdxMoved x s t ∧ KeepsRest { s with idx := t.idx } t ∧ t.pc = s.pc + 2) ∧
    (s.idx.toNat + x.val > 4095 → ∃ t, exec (.ldMiVx x) s = .next t ∧ OnlyFault .dataOutOfBounds s t)

/-- R205: V0 to Vx loaded from I upward, I moved under legacy only, or the fault with nothing written. -/
def Obligations.RegisterLoad : Prop :=
  ∀ (x : RegIdx) (s : State),
    EncodedAs (0xF065 + 256 * x) (.ldVxMi x) ∧
    (s.idx.toNat + x.val ≤ 4095 →
      ∃ t, exec (.ldVxMi x) s = .next t ∧
        (∀ k : RegIdx, k ≤ x → t.reg k = s.read (s.idx.toNat + k.val)) ∧
        (∀ k : RegIdx, x < k → t.reg k = s.reg k) ∧ KeepsMem s t ∧
        IdxMoved x s t ∧ KeepsRest { s with idx := t.idx } t ∧ t.pc = s.pc + 2) ∧
    (s.idx.toNat + x.val > 4095 → ∃ t, exec (.ldVxMi x) s = .next t ∧ OnlyFault .dataOutOfBounds s t)

/-- R206, which the spec marks as derived: a dump, then a load with the same `x` from a state `u` whose I is set back and
whose bytes are those the dump left, restores V0 to Vx, under both quirks. -/
def Obligations.DumpThenLoadRestores : Prop :=
  ∀ (x : RegIdx) (s t u : State), s.idx.toNat + x.val ≤ 4095 → exec (.ldMiVx x) s = .next t →
    u.idx = s.idx → u.quirks = s.quirks →
    (∀ a, s.idx.toNat ≤ a ∧ a ≤ s.idx.toNat + x.val → u.read a = t.read a) →
    ∃ w, exec (.ldVxMi x) u = .next w ∧ (∀ k : RegIdx, k ≤ x → w.reg k = s.reg k) ∧
      (s.quirks.loadStore = .legacy →
        t.idx.toNat = s.idx.toNat + x.val + 1 ∧ w.idx.toNat = s.idx.toNat + x.val + 1) ∧
      (s.quirks.loadStore = .revised → t.idx = s.idx ∧ w.idx = s.idx)

/-- R65: a store over the next instruction is what the very next step fetches. -/
def Obligations.StoreIsSeenByTheNextFetch : Prop :=
  ∀ (x : RegIdx) (s t : State), s.pc.toNat ≤ 4092 → s.idx = s.pc + 2 → 1 ≤ x.val →
    s.idx.toNat + x.val ≤ 4095 → exec (.ldMiVx x) s = .next t →
    t.pc.toNat = s.pc.toNat + 2 ∧ fetchedWord t = (s.reg 0).toNat * 256 + (s.reg 1).toNat

/-! ## Display -/

/-- R231: CLS zeroes every pixel and marks the display dirty. -/
def Obligations.ClearScreen : Prop :=
  EncodedAs 0x00E0 .cls ∧
  ∀ s : State,
    (∃ t, exec .cls s = .next t ∧ (∀ p, Framebuffer.pixel t.fb p = false) ∧ t.pc = s.pc + 2 ∧
      Frame [] { s with fb := t.fb } t) ∧
    (phase s = .run .cls → stepOutput s = ⟨true, .none⟩)

/-- R232 to R239: a draw flips exactly the covered pixels, and VF ends 1 iff a covered pixel was 1; out of range it only
faults. The coordinates are those before VF is written. That each covered pixel is flipped once only, so that the order of
the bits does not matter, is R240(a), which the spec marks as derived. -/
def Obligations.DrawFlipsExactlyTheCoveredPixels : Prop :=
  ∀ (x y : RegIdx) (n : Fin 16) (s : State),
    EncodedAs (0xD000 + 256 * x + 16 * y + n) (.drw x y n) ∧
    (SpriteInRange n s →
      (∃ t, exec (.drw x y n) s = .next t ∧ Drawn x y n s t ∧ t.pc = s.pc + 2 ∧
        Frame [15] { s with fb := t.fb } t) ∧
      (phase s = .run (.drw x y n) → stepOutput s = ⟨true, .none⟩)) ∧
    (¬ SpriteInRange n s → ∃ t, exec (.drw x y n) s = .next t ∧ OnlyFault .dataOutOfBounds s t)

/-- R240(b), which the spec marks as derived (from R234 to R238): the same sprite drawn twice at the same place restores the
framebuffer; the second draw's flag is 1 iff a covered pixel was 0 before the pair. The second draw may name other
registers, in any state that holds the same sprite, coordinates, policy and framebuffer. -/
def Obligations.DrawTwiceRestores : Prop :=
  ∀ (x y x' y' : RegIdx) (n : Fin 16) (s t u : State), SpriteInRange n s → exec (.drw x y n) s = .next t →
    u.fb = t.fb → u.idx = s.idx → u.quirks.wrap = s.quirks.wrap → KeepsMem s u →
    u.reg x' = s.reg x → u.reg y' = s.reg y →
    ∃ w, exec (.drw x' y' n) u = .next w ∧ w.fb = s.fb ∧
      (t.reg 15 = 1 ↔ ∃ p, Covers x y n s p ∧ Framebuffer.pixel s.fb p = true) ∧
      (w.reg 15 = 1 ↔ ∃ p, Covers x y n s p ∧ Framebuffer.pixel s.fb p = false)

/-! ## Timers and input -/

/-- R260, R261, R262: the three timer instructions. -/
def Obligations.TimerInstructions : Prop :=
  ∀ (x : RegIdx) (s : State),
    (EncodedAs (0xF007 + 256 * x) (.ldVxDt x) ∧
      ∃ t, exec (.ldVxDt x) s = .next t ∧ t.reg x = s.dt ∧ t.pc = s.pc + 2 ∧ Frame [x] s t) ∧
    (EncodedAs (0xF015 + 256 * x) (.ldDtVx x) ∧
      ∃ t, exec (.ldDtVx x) s = .next t ∧ t.dt = s.reg x ∧ t.pc = s.pc + 2 ∧ Frame [] { s with dt := t.dt } t) ∧
    (EncodedAs (0xF018 + 256 * x) (.ldStVx x) ∧
      ∃ t, exec (.ldStVx x) s = .next t ∧ t.st = s.reg x ∧ t.pc = s.pc + 2 ∧ Frame [] { s with st := t.st } t ∧
        ((tickTimers t).2 = true ↔ (s.reg x).toNat = 1))

/-- R270, R271, R272: the key skips, and the fault above key 15. -/
def Obligations.KeySkips : Prop :=
  ∀ (x : RegIdx) (s : State),
    EncodedAs (0xE09E + 256 * x) (.skp x) ∧ EncodedAs (0xE0A1 + 256 * x) (.sknp x) ∧
    (∀ k : Fin 16, (s.reg x).toNat = k.val →
      (∃ t, exec (.skp x) s = .next t ∧ Frame [] s t ∧
        t.pc = (if s.keys[k.val] = true then s.pc + 4 else s.pc + 2)) ∧
      (∃ t, exec (.sknp x) s = .next t ∧ Frame [] s t ∧
        t.pc = (if s.keys[k.val] = true then s.pc + 2 else s.pc + 4))) ∧
    ((s.reg x).toNat > 15 →
      (∃ t, exec (.skp x) s = .next t ∧ OnlyFault .keyIndexOutOfRange s t) ∧
      (∃ t, exec (.sknp x) s = .next t ∧ OnlyFault .keyIndexOutOfRange s t))

/-- R273 to R276: the key wait, one latch transition an execution, the least pressed key captured, and only the release of
the captured key resolving it. -/
def Obligations.KeyWaitTransitions : Prop :=
  ∀ (x : RegIdx) (s : State),
    EncodedAs (0xF00A + 256 * x) (.ldVxK x) ∧
    (s.latch = .idle →
      ∃ t, exec (.ldVxK x) s = .next t ∧ t.latch = .waitingForPress ∧ t.pc = s.pc ∧
        Frame [] { s with latch := t.latch } t) ∧
    (s.latch = .waitingForPress → (∀ k : Fin 16, s.keys[k.val] = false) → exec (.ldVxK x) s = .next s) ∧
    (∀ k : Fin 16, s.latch = .waitingForPress → s.keys[k.val] = true → (∀ j : Fin 16, j < k → s.keys[j.val] = false) →
      ∃ t, exec (.ldVxK x) s = .next t ∧ t.latch = .waitingForRelease k ∧ t.pc = s.pc ∧
        Frame [] { s with latch := t.latch } t) ∧
    (∀ k : Fin 16, s.latch = .waitingForRelease k → s.keys[k.val] = true → exec (.ldVxK x) s = .next s) ∧
    (∀ k : Fin 16, s.latch = .waitingForRelease k → s.keys[k.val] = false →
      ∃ t, exec (.ldVxK x) s = .next t ∧ (t.reg x).toNat = k.val ∧ t.latch = .idle ∧ t.pc = s.pc + 2 ∧
        Frame [x] { s with latch := t.latch } t)

/-- From Idle the wait resolves in three steps when the host presses a key before the second and releases it before the
third, with any number of ticks before and after each key write; and in no fewer than three steps, whatever key writes and
ticks stand between them (R277, R351). -/
def Obligations.KeyWaitResolvesInThreeSteps : Prop :=
  ∀ (x : RegIdx) (s : State) (pressed released : Vector Bool 16) (k : Fin 16) (a b c d : Nat),
    s.latch = .idle → phase s = .run (.ldVxK x) →
    pressed[k.val] = true → (∀ j : Fin 16, j < k → pressed[j.val] = false) → released[k.val] = false →
    (∀ ops : List HostOp, (∀ op ∈ ops, op = .step ∨ op = .tickTimers ∨ ∃ ks, op = .writeKeys ks) →
      ops.count .step ≤ 2 → (runOps ops s).pc = s.pc ∧ ∀ r, (runOps ops s).reg r = s.reg r) ∧
    (let ticks := fun n => List.replicate n HostOp.tickTimers
     let t := runOps ([.step] ++ ticks a ++ [.writeKeys pressed] ++ ticks b ++ [.step] ++ ticks c ++
       [.writeKeys released] ++ ticks d ++ [.step]) s
     (t.reg x).toNat = k.val ∧ t.latch = .idle ∧ t.pc = s.pc + 2 ∧ KeepsRegs [x] s t ∧ KeepsMem s t)
end

