-- ==== Sys2Proof/Laws/Decode.lean ====
section
/-!
SUPPORT. The encoder's formats and the opcode table's masks as arithmetic on the word's number (R80, R81).
-/

namespace Sys2Proof

theorem toNat_formatA {op : Nat} (h : op < 16) (nnn : Addr12) : (formatA op nnn).toNat = op * 4096 + nnn.toNat := by
  have := nnn.isLt
  simp [formatA]; omega

theorem toNat_formatXK {op : Nat} (h : op < 16) (x : RegIdx) (kk : Byte) :
    (formatXK op x kk).toNat = op * 4096 + x.val * 256 + kk.toNat := by
  have := kk.isLt; have := x.isLt
  simp [formatXK]; omega

theorem toNat_formatXY {op : Nat} (h : op < 16) (x y : RegIdx) (n : Fin 16) :
    (formatXY op x y n).toNat = op * 4096 + x.val * 256 + y.val * 16 + n.val := by
  have := y.isLt; have := x.isLt; have := n.isLt
  simp [formatXY]; omega

/-- The mask of the rows the top nibble selects. -/
theorem and_F000 (w : Word) : (w &&& (0xF000 : Word)).toNat = w.toNat / 4096 * 4096 := by
  have h : w &&& (0xF000 : Word) = (w >>> 12) <<< 12 := by
    refine BitVec.eq_of_getLsbD_eq fun i hi => ?_
    interval_cases i <;> simp
  rw [h]
  have := w.isLt
  simp [BitVec.toNat_shiftLeft, Nat.shiftRight_eq_div_pow, Nat.shiftLeft_eq]
  omega

/-- The mask of family 8. -/
theorem and_F00F (w : Word) : (w &&& (0xF00F : Word)).toNat = w.toNat / 4096 * 4096 + w.toNat % 16 := by
  have h : w &&& (0xF00F : Word) = (w &&& (0xF000 : Word)) ||| ((w <<< 12) >>> 12) := by
    refine BitVec.eq_of_getLsbD_eq fun i hi => ?_
    interval_cases i <;> simp
  have h2 : (w &&& (0xF000 : Word)) ||| ((w <<< 12) >>> 12) = (w &&& (0xF000 : Word)) + ((w <<< 12) >>> 12) := by
    refine (BitVec.add_eq_or_of_and_eq_zero _ _ ?_).symm
    refine BitVec.eq_of_getLsbD_eq fun i hi => ?_
    interval_cases i <;> simp
  rw [h, h2, BitVec.toNat_add, and_F000]
  have := w.isLt
  simp [BitVec.toNat_shiftLeft, Nat.shiftRight_eq_div_pow, Nat.shiftLeft_eq]
  omega

/-- The mask of families E and F. -/
theorem and_F0FF (w : Word) : (w &&& (0xF0FF : Word)).toNat = w.toNat / 4096 * 4096 + w.toNat % 256 := by
  have h : w &&& (0xF0FF : Word) = (w &&& (0xF000 : Word)) ||| ((w <<< 8) >>> 8) := by
    refine BitVec.eq_of_getLsbD_eq fun i hi => ?_
    interval_cases i <;> simp
  have h2 : (w &&& (0xF000 : Word)) ||| ((w <<< 8) >>> 8) = (w &&& (0xF000 : Word)) + ((w <<< 8) >>> 8) := by
    refine (BitVec.add_eq_or_of_and_eq_zero _ _ ?_).symm
    refine BitVec.eq_of_getLsbD_eq fun i hi => ?_
    interval_cases i <;> simp
  rw [h, h2, BitVec.toNat_add, and_F000]
  have := w.isLt
  simp [BitVec.toNat_shiftLeft, Nat.shiftRight_eq_div_pow, Nat.shiftLeft_eq]
  omega

theorem fieldKK_toNat (w : Word) : (fieldKK w).toNat = w.toNat % 256 := by simp [fieldKK]

theorem fieldNNN_toNat (w : Word) : (fieldNNN w).toNat = w.toNat % 4096 := by simp [fieldNNN]

theorem toNat_bigEndian (hi lo : Byte) : (bigEndian hi lo).toNat = hi.toNat * 256 + lo.toNat := by
  have := hi.isLt; have := lo.isLt
  simp [bigEndian]; omega

/-- The two bytes of a word make it again (R52). -/
theorem bigEndian_bytes (w : Word) : bigEndian (highByte w) (lowByte w) = w := by
  apply BitVec.eq_of_toNat_eq
  have := w.isLt
  rw [toNat_bigEndian]
  simp [highByte, lowByte]; omega

end Sys2Proof
end

