-- ==== Sys2Proof/Laws/Memory.lean ====
section
/-!
SUPPORT. The memory array as a function of the address: read after write (R57), and every operation keeps the canonical
form (R50).
-/

namespace Sys2Proof.Machine

namespace Memory

variable (g : GlyphTable)

/-! ### Reading -/

theorem read_insert (m : Memory) (a : Nat) (b : Byte) (c : Nat) :
    (insert m a b).read g c = if c = a then b else m.read g c := by
  induction m with
  | nil => simp [insert, read]
  | cons e rest ih =>
    obtain ⟨k, d⟩ := e
    simp only [insert]
    split
    · simp [read]
    · split
      · next h => subst h; by_cases hc : c = a <;> simp [read, hc]
      · next _ h =>
        simp only [read, ih]
        by_cases hk : c = k
        · subst hk; simp [Ne.symm h]
        · simp [hk]

theorem read_erase (m : Memory) (a c : Nat) :
    (erase m a).read g c = if c = a then resetByte g a else m.read g c := by
  induction m with
  | nil => by_cases hc : c = a <;> simp [erase, read, hc]
  | cons e rest ih =>
    obtain ⟨k, d⟩ := e
    simp only [erase] at ih
    by_cases hk : k = a
    · subst hk
      by_cases hc : c = k <;> simp_all [erase, read]
    · by_cases hc : c = k
      · subst hc; simp [erase, read, hk]
      · simp [erase, read, hk, hc, ih]

/-- A write to an existing address is read back there and nowhere else (R57). -/
theorem read_write {a : Nat} (ha : a < 4096) (m : Memory) (b : Byte) (c : Nat) :
    (m.write g a b).read g c = if c = a then b else m.read g c := by
  unfold write
  rw [if_pos (show a < Config.memSize from ha)]
  split
  · next h => rw [read_erase, h]
  · exact read_insert g m a b c

theorem read_write_other (m : Memory) {a c : Nat} (b : Byte) (h : c ≠ a) : (m.write g a b).read g c = m.read g c := by
  by_cases ha : a < 4096
  · rw [read_write g ha, if_neg h]
  · simp [write, Config.memSize, ha]

theorem read_nil (a : Nat) : read g [] a = resetByte g a := rfl

/-- Bytes stored in a row read back at their places (R53). -/
theorem read_writeBytes (bs : List Byte) (m : Memory) (a c : Nat) (h : a + bs.length ≤ 4096) :
    (m.writeBytes g a bs).read g c = if _h : a ≤ c ∧ c - a < bs.length then bs[c - a] else m.read g c := by
  induction bs generalizing m a with
  | nil => simp [writeBytes]
  | cons b bs ih =>
    simp only [List.length_cons] at h
    rw [writeBytes, ih _ _ (by omega)]
    by_cases h1 : a + 1 ≤ c ∧ c - (a + 1) < bs.length
    · have h2 : a ≤ c ∧ c - a < (b :: bs).length := by simp; omega
      rw [dif_pos h1, dif_pos h2]
      have e : c - a = c - (a + 1) + 1 := by omega
      simp [e]
    · rw [dif_neg h1]
      by_cases hc : c = a
      · subst hc
        rw [read_write g (by omega), if_pos rfl, dif_pos ⟨Nat.le_refl _, by simp⟩]
        simp
      · rw [read_write_other g _ _ hc, dif_neg (by simp only [List.length_cons]; omega)]

/-- A byte outside the stored range keeps its value. -/
theorem read_writeBytes_outside (bs : List Byte) (m : Memory) (a c : Nat) (h : c < a ∨ a + bs.length ≤ c) :
    (m.writeBytes g a bs).read g c = m.read g c := by
  induction bs generalizing m a with
  | nil => rfl
  | cons b bs ih =>
    simp only [List.length_cons] at h
    rw [writeBytes, ih _ _ (by omega), read_write_other g _ _ (by omega)]

@[simp] theorem length_readBytes (m : Memory) (a n : Nat) : (m.readBytes g a n).length = n := by
  induction n generalizing a with
  | zero => rfl
  | succ n ih => simp [readBytes, ih]

theorem getElem_readBytes (m : Memory) (a n r : Nat) (h : r < (m.readBytes g a n).length) :
    (m.readBytes g a n)[r] = m.read g (a + r) := by
  induction n generalizing a r with
  | zero => simp at h
  | succ n ih =>
    cases r with
    | zero => simp [readBytes]
    | succ r => simp [readBytes, ih]; congr 1; omega

/-! ### The canonical form -/

theorem wf_cons (k : Nat) (b : Byte) (rest : Memory) :
    wf g ((k, b) :: rest) = true ↔
      k < 4096 ∧ b ≠ resetByte g k ∧ (∀ c ∈ rest, k < c.1) ∧ wf g rest = true := by
  simp only [wf, Bool.and_eq_true, decide_eq_true_eq, List.all_eq_true, and_assoc]

theorem mem_insert (m : Memory) (a : Nat) (b : Byte) (c : Host.Cell) (h : c ∈ insert m a b) :
    c = (a, b) ∨ c ∈ m := by
  induction m with
  | nil => simpa [insert] using h
  | cons e rest ih =>
    obtain ⟨k, d⟩ := e
    simp only [insert] at h
    split at h
    · simpa using h
    · split at h
      · rcases List.mem_cons.mp h with h | h
        · exact .inl h
        · exact .inr (List.mem_cons_of_mem _ h)
      · rcases List.mem_cons.mp h with h | h
        · exact .inr (h ▸ List.mem_cons_self)
        · exact (ih h).imp_right (List.mem_cons_of_mem _)

theorem wf_insert {m : Memory} {a : Nat} {b : Byte} (hm : wf g m = true) (ha : a < 4096) (hb : b ≠ resetByte g a) :
    wf g (insert m a b) = true := by
  induction m with
  | nil => simp [insert, wf, Config.memSize, ha, hb]
  | cons e rest ih =>
    obtain ⟨k, d⟩ := e
    obtain ⟨hk, hd, hr, hw⟩ := (wf_cons ..).mp hm
    simp only [insert]
    split
    · next h =>
      refine (wf_cons ..).mpr ⟨ha, hb, ?_, hm⟩
      intro c hc
      rcases List.mem_cons.mp hc with rfl | hc
      · exact h
      · exact Nat.lt_trans h (hr c hc)
    · split
      · next h => subst h; exact (wf_cons ..).mpr ⟨ha, hb, hr, hw⟩
      · next h1 h2 =>
        refine (wf_cons ..).mpr ⟨hk, hd, ?_, ih hw⟩
        intro c hc
        rcases mem_insert _ _ _ _ hc with rfl | hc
        · show k < a; omega
        · exact hr c hc

theorem wf_erase {m : Memory} (a : Nat) (hm : wf g m = true) : wf g (erase m a) = true := by
  induction m with
  | nil => rfl
  | cons e rest ih =>
    obtain ⟨k, d⟩ := e
    obtain ⟨hk, hd, hr, hw⟩ := (wf_cons ..).mp hm
    by_cases h : k = a
    · simpa [erase, h] using ih hw
    · have : erase ((k, d) :: rest) a = (k, d) :: erase rest a := by simp [erase, h]
      rw [this]
      exact (wf_cons ..).mpr ⟨hk, hd, fun c hc => hr c (List.mem_of_mem_filter hc), ih hw⟩

/-- A write keeps the canonical form, at an address that exists or not. -/
theorem wf_write {m : Memory} (a : Nat) (b : Byte) (hm : wf g m = true) : wf g (m.write g a b) = true := by
  unfold write
  split
  · next h =>
    split
    · exact wf_erase g a hm
    · next hb => exact wf_insert g hm h hb
  · exact hm

theorem wf_writeBytes (bs : List Byte) {m : Memory} (a : Nat) (hm : wf g m = true) :
    wf g (m.writeBytes g a bs) = true := by
  induction bs generalizing m a with
  | nil => exact hm
  | cons b bs ih => exact ih _ (wf_write g a b hm)

end Memory

/-! ### The machine's reads and stores -/

/-- A byte after a store: the stored one inside its range, else as before (R53, R57). -/
theorem State.read_store (s : State) (a c : Nat) (bs : List Byte) (h : a + bs.length ≤ 4096) :
    (s.store a bs).read c = if _h : a ≤ c ∧ c - a < bs.length then bs[c - a] else s.read c :=
  Memory.read_writeBytes s.glyphs bs s.mem a c h

/-- A byte outside the stored range keeps its value, whatever the range. -/
theorem State.read_store_outside (s : State) (a c : Nat) (bs : List Byte) (h : c < a ∨ a + bs.length ≤ c) :
    (s.store a bs).read c = s.read c :=
  Memory.read_writeBytes_outside s.glyphs bs s.mem a c h

/-- After construction and `init` a byte is its reset contents (R50, R342). -/
theorem State.read_construct (q : Quirks) (g : GlyphTable) (a : Nat) : (State.construct q g).read a = resetByte g a := rfl

/-- Glyph `d`'s bytes stand at `0x050 + 5 * d` (R58, R59). -/
theorem resetByte_glyph (g : GlyphTable) {k : Nat} (h : k < 80) : resetByte g (0x050 + k) = g[k] := by
  have h' : Config.glyphBase ≤ 0x050 + k ∧ 0x050 + k < Config.glyphBase + Config.glyphSize :=
    ⟨Nat.le_add_right _ _, Nat.add_lt_add_left h _⟩
  simp only [resetByte, dif_pos h', Config.glyphBase, Nat.add_sub_cancel_left]

/-- Outside the glyph table the reset contents are 0 (R50). -/
theorem resetByte_zero (g : GlyphTable) {a : Nat} (h : a < 0x050 ∨ 0x0A0 ≤ a) : resetByte g a = 0 := by
  have h' : ¬ (Config.glyphBase ≤ a ∧ a < Config.glyphBase + Config.glyphSize) := by
    simp only [Config.glyphBase, Config.glyphSize]; omega
  simp only [resetByte, dif_neg h']

@[simp] theorem State.length_readBytes (s : State) (a n : Nat) : (s.readBytes a n).length = n :=
  Memory.length_readBytes ..

theorem State.getElem_readBytes (s : State) (a n r : Nat) (h : r < (s.readBytes a n).length) :
    (s.readBytes a n)[r] = s.read (a + r) :=
  Memory.getElem_readBytes s.glyphs s.mem a n r h

/-- `InRange` as an inequality (R10). -/
theorem inRange_iff (a n : Nat) : inRange a n = true ↔ n = 0 ∨ a + n ≤ 4096 := by
  simp only [inRange, Bool.or_eq_true, beq_iff_eq, decide_eq_true_eq]

end Sys2Proof.Machine
end

