-- ==== Sys2Proof/Laws/State.lean ====
section
/-!
SUPPORT. One lemma per field of State and per update of it, and what a register reads after each update, so that no later
proof unfolds a record update.
-/

namespace Sys2Proof.Machine

variable (s : State)

/-! ### State.setReg -/

@[simp] theorem State.setReg_v (x : RegIdx) (b : Byte) : (s.setReg x b).v = s.v.set x.val b := rfl
@[simp] theorem State.setReg_idx (x : RegIdx) (b : Byte) : (s.setReg x b).idx = s.idx := rfl
@[simp] theorem State.setReg_pc (x : RegIdx) (b : Byte) : (s.setReg x b).pc = s.pc := rfl
@[simp] theorem State.setReg_stack (x : RegIdx) (b : Byte) : (s.setReg x b).stack = s.stack := rfl
@[simp] theorem State.setReg_sp (x : RegIdx) (b : Byte) : (s.setReg x b).sp = s.sp := rfl
@[simp] theorem State.setReg_dt (x : RegIdx) (b : Byte) : (s.setReg x b).dt = s.dt := rfl
@[simp] theorem State.setReg_st (x : RegIdx) (b : Byte) : (s.setReg x b).st = s.st := rfl
@[simp] theorem State.setReg_fb (x : RegIdx) (b : Byte) : (s.setReg x b).fb = s.fb := rfl
@[simp] theorem State.setReg_keys (x : RegIdx) (b : Byte) : (s.setReg x b).keys = s.keys := rfl
@[simp] theorem State.setReg_latch (x : RegIdx) (b : Byte) : (s.setReg x b).latch = s.latch := rfl
@[simp] theorem State.setReg_quirks (x : RegIdx) (b : Byte) : (s.setReg x b).quirks = s.quirks := rfl
@[simp] theorem State.setReg_fault (x : RegIdx) (b : Byte) : (s.setReg x b).fault = s.fault := rfl
@[simp] theorem State.setReg_mem (x : RegIdx) (b : Byte) : (s.setReg x b).mem = s.mem := rfl
@[simp] theorem State.setReg_glyphs (x : RegIdx) (b : Byte) : (s.setReg x b).glyphs = s.glyphs := rfl
@[simp] theorem State.setReg_draws (x : RegIdx) (b : Byte) : (s.setReg x b).draws = s.draws := rfl

/-! ### State.setIdx -/

@[simp] theorem State.setIdx_v (a : Word) : (s.setIdx a).v = s.v := rfl
@[simp] theorem State.setIdx_idx (a : Word) : (s.setIdx a).idx = a := rfl
@[simp] theorem State.setIdx_pc (a : Word) : (s.setIdx a).pc = s.pc := rfl
@[simp] theorem State.setIdx_stack (a : Word) : (s.setIdx a).stack = s.stack := rfl
@[simp] theorem State.setIdx_sp (a : Word) : (s.setIdx a).sp = s.sp := rfl
@[simp] theorem State.setIdx_dt (a : Word) : (s.setIdx a).dt = s.dt := rfl
@[simp] theorem State.setIdx_st (a : Word) : (s.setIdx a).st = s.st := rfl
@[simp] theorem State.setIdx_fb (a : Word) : (s.setIdx a).fb = s.fb := rfl
@[simp] theorem State.setIdx_keys (a : Word) : (s.setIdx a).keys = s.keys := rfl
@[simp] theorem State.setIdx_latch (a : Word) : (s.setIdx a).latch = s.latch := rfl
@[simp] theorem State.setIdx_quirks (a : Word) : (s.setIdx a).quirks = s.quirks := rfl
@[simp] theorem State.setIdx_fault (a : Word) : (s.setIdx a).fault = s.fault := rfl
@[simp] theorem State.setIdx_mem (a : Word) : (s.setIdx a).mem = s.mem := rfl
@[simp] theorem State.setIdx_glyphs (a : Word) : (s.setIdx a).glyphs = s.glyphs := rfl
@[simp] theorem State.setIdx_draws (a : Word) : (s.setIdx a).draws = s.draws := rfl

/-! ### State.setPc -/

@[simp] theorem State.setPc_v (a : Word) : (s.setPc a).v = s.v := rfl
@[simp] theorem State.setPc_idx (a : Word) : (s.setPc a).idx = s.idx := rfl
@[simp] theorem State.setPc_pc (a : Word) : (s.setPc a).pc = a := rfl
@[simp] theorem State.setPc_stack (a : Word) : (s.setPc a).stack = s.stack := rfl
@[simp] theorem State.setPc_sp (a : Word) : (s.setPc a).sp = s.sp := rfl
@[simp] theorem State.setPc_dt (a : Word) : (s.setPc a).dt = s.dt := rfl
@[simp] theorem State.setPc_st (a : Word) : (s.setPc a).st = s.st := rfl
@[simp] theorem State.setPc_fb (a : Word) : (s.setPc a).fb = s.fb := rfl
@[simp] theorem State.setPc_keys (a : Word) : (s.setPc a).keys = s.keys := rfl
@[simp] theorem State.setPc_latch (a : Word) : (s.setPc a).latch = s.latch := rfl
@[simp] theorem State.setPc_quirks (a : Word) : (s.setPc a).quirks = s.quirks := rfl
@[simp] theorem State.setPc_fault (a : Word) : (s.setPc a).fault = s.fault := rfl
@[simp] theorem State.setPc_mem (a : Word) : (s.setPc a).mem = s.mem := rfl
@[simp] theorem State.setPc_glyphs (a : Word) : (s.setPc a).glyphs = s.glyphs := rfl
@[simp] theorem State.setPc_draws (a : Word) : (s.setPc a).draws = s.draws := rfl

/-! ### State.next2 -/

@[simp] theorem State.next2_v : (s.next2).v = s.v := rfl
@[simp] theorem State.next2_idx : (s.next2).idx = s.idx := rfl
@[simp] theorem State.next2_pc : (s.next2).pc = s.pc + 2 := rfl
@[simp] theorem State.next2_stack : (s.next2).stack = s.stack := rfl
@[simp] theorem State.next2_sp : (s.next2).sp = s.sp := rfl
@[simp] theorem State.next2_dt : (s.next2).dt = s.dt := rfl
@[simp] theorem State.next2_st : (s.next2).st = s.st := rfl
@[simp] theorem State.next2_fb : (s.next2).fb = s.fb := rfl
@[simp] theorem State.next2_keys : (s.next2).keys = s.keys := rfl
@[simp] theorem State.next2_latch : (s.next2).latch = s.latch := rfl
@[simp] theorem State.next2_quirks : (s.next2).quirks = s.quirks := rfl
@[simp] theorem State.next2_fault : (s.next2).fault = s.fault := rfl
@[simp] theorem State.next2_mem : (s.next2).mem = s.mem := rfl
@[simp] theorem State.next2_glyphs : (s.next2).glyphs = s.glyphs := rfl
@[simp] theorem State.next2_draws : (s.next2).draws = s.draws := rfl

/-! ### State.skipIf -/

@[simp] theorem State.skipIf_v (c : Bool) : (s.skipIf c).v = s.v := rfl
@[simp] theorem State.skipIf_idx (c : Bool) : (s.skipIf c).idx = s.idx := rfl
@[simp] theorem State.skipIf_pc (c : Bool) : (s.skipIf c).pc = if c then s.pc + 4 else s.pc + 2 := rfl
@[simp] theorem State.skipIf_stack (c : Bool) : (s.skipIf c).stack = s.stack := rfl
@[simp] theorem State.skipIf_sp (c : Bool) : (s.skipIf c).sp = s.sp := rfl
@[simp] theorem State.skipIf_dt (c : Bool) : (s.skipIf c).dt = s.dt := rfl
@[simp] theorem State.skipIf_st (c : Bool) : (s.skipIf c).st = s.st := rfl
@[simp] theorem State.skipIf_fb (c : Bool) : (s.skipIf c).fb = s.fb := rfl
@[simp] theorem State.skipIf_keys (c : Bool) : (s.skipIf c).keys = s.keys := rfl
@[simp] theorem State.skipIf_latch (c : Bool) : (s.skipIf c).latch = s.latch := rfl
@[simp] theorem State.skipIf_quirks (c : Bool) : (s.skipIf c).quirks = s.quirks := rfl
@[simp] theorem State.skipIf_fault (c : Bool) : (s.skipIf c).fault = s.fault := rfl
@[simp] theorem State.skipIf_mem (c : Bool) : (s.skipIf c).mem = s.mem := rfl
@[simp] theorem State.skipIf_glyphs (c : Bool) : (s.skipIf c).glyphs = s.glyphs := rfl
@[simp] theorem State.skipIf_draws (c : Bool) : (s.skipIf c).draws = s.draws := rfl

/-! ### takeFault -/

@[simp] theorem takeFault_v (k : FaultKind) : (takeFault k s).v = s.v := rfl
@[simp] theorem takeFault_idx (k : FaultKind) : (takeFault k s).idx = s.idx := rfl
@[simp] theorem takeFault_pc (k : FaultKind) : (takeFault k s).pc = s.pc := rfl
@[simp] theorem takeFault_stack (k : FaultKind) : (takeFault k s).stack = s.stack := rfl
@[simp] theorem takeFault_sp (k : FaultKind) : (takeFault k s).sp = s.sp := rfl
@[simp] theorem takeFault_dt (k : FaultKind) : (takeFault k s).dt = s.dt := rfl
@[simp] theorem takeFault_st (k : FaultKind) : (takeFault k s).st = s.st := rfl
@[simp] theorem takeFault_fb (k : FaultKind) : (takeFault k s).fb = s.fb := rfl
@[simp] theorem takeFault_keys (k : FaultKind) : (takeFault k s).keys = s.keys := rfl
@[simp] theorem takeFault_latch (k : FaultKind) : (takeFault k s).latch = s.latch := rfl
@[simp] theorem takeFault_quirks (k : FaultKind) : (takeFault k s).quirks = s.quirks := rfl
@[simp] theorem takeFault_fault (k : FaultKind) : (takeFault k s).fault = some k := rfl
@[simp] theorem takeFault_mem (k : FaultKind) : (takeFault k s).mem = s.mem := rfl
@[simp] theorem takeFault_glyphs (k : FaultKind) : (takeFault k s).glyphs = s.glyphs := rfl
@[simp] theorem takeFault_draws (k : FaultKind) : (takeFault k s).draws = s.draws := rfl

/-! ### State.setResultAndFlag -/

@[simp] theorem State.setResultAndFlag_v (x : RegIdx) (r f : Byte) : (s.setResultAndFlag x r f).v = (s.v.set x.val r).set 15 f :=
  rfl
@[simp] theorem State.setResultAndFlag_idx (x : RegIdx) (r f : Byte) : (s.setResultAndFlag x r f).idx = s.idx := rfl
@[simp] theorem State.setResultAndFlag_pc (x : RegIdx) (r f : Byte) : (s.setResultAndFlag x r f).pc = s.pc := rfl
@[simp] theorem State.setResultAndFlag_stack (x : RegIdx) (r f : Byte) : (s.setResultAndFlag x r f).stack = s.stack :=
  rfl
@[simp] theorem State.setResultAndFlag_sp (x : RegIdx) (r f : Byte) : (s.setResultAndFlag x r f).sp = s.sp := rfl
@[simp] theorem State.setResultAndFlag_dt (x : RegIdx) (r f : Byte) : (s.setResultAndFlag x r f).dt = s.dt := rfl
@[simp] theorem State.setResultAndFlag_st (x : RegIdx) (r f : Byte) : (s.setResultAndFlag x r f).st = s.st := rfl
@[simp] theorem State.setResultAndFlag_fb (x : RegIdx) (r f : Byte) : (s.setResultAndFlag x r f).fb = s.fb := rfl
@[simp] theorem State.setResultAndFlag_keys (x : RegIdx) (r f : Byte) : (s.setResultAndFlag x r f).keys = s.keys :=
  rfl
@[simp] theorem State.setResultAndFlag_latch (x : RegIdx) (r f : Byte) : (s.setResultAndFlag x r f).latch = s.latch :=
  rfl
@[simp] theorem State.setResultAndFlag_quirks (x : RegIdx) (r f : Byte) : (s.setResultAndFlag x r f).quirks = s.quirks :=
  rfl
@[simp] theorem State.setResultAndFlag_fault (x : RegIdx) (r f : Byte) : (s.setResultAndFlag x r f).fault = s.fault :=
  rfl
@[simp] theorem State.setResultAndFlag_mem (x : RegIdx) (r f : Byte) : (s.setResultAndFlag x r f).mem = s.mem := rfl
@[simp] theorem State.setResultAndFlag_glyphs (x : RegIdx) (r f : Byte) : (s.setResultAndFlag x r f).glyphs = s.glyphs :=
    rfl
@[simp] theorem State.setResultAndFlag_draws (x : RegIdx) (r f : Byte) : (s.setResultAndFlag x r f).draws = s.draws :=
  rfl

/-! ### State.store -/

@[simp] theorem State.store_v (a : Nat) (bs : List Byte) : (s.store a bs).v = s.v := rfl
@[simp] theorem State.store_idx (a : Nat) (bs : List Byte) : (s.store a bs).idx = s.idx := rfl
@[simp] theorem State.store_pc (a : Nat) (bs : List Byte) : (s.store a bs).pc = s.pc := rfl
@[simp] theorem State.store_stack (a : Nat) (bs : List Byte) : (s.store a bs).stack = s.stack := rfl
@[simp] theorem State.store_sp (a : Nat) (bs : List Byte) : (s.store a bs).sp = s.sp := rfl
@[simp] theorem State.store_dt (a : Nat) (bs : List Byte) : (s.store a bs).dt = s.dt := rfl
@[simp] theorem State.store_st (a : Nat) (bs : List Byte) : (s.store a bs).st = s.st := rfl
@[simp] theorem State.store_fb (a : Nat) (bs : List Byte) : (s.store a bs).fb = s.fb := rfl
@[simp] theorem State.store_keys (a : Nat) (bs : List Byte) : (s.store a bs).keys = s.keys := rfl
@[simp] theorem State.store_latch (a : Nat) (bs : List Byte) : (s.store a bs).latch = s.latch := rfl
@[simp] theorem State.store_quirks (a : Nat) (bs : List Byte) : (s.store a bs).quirks = s.quirks := rfl
@[simp] theorem State.store_fault (a : Nat) (bs : List Byte) : (s.store a bs).fault = s.fault := rfl
@[simp] theorem State.store_glyphs (a : Nat) (bs : List Byte) : (s.store a bs).glyphs = s.glyphs := rfl
@[simp] theorem State.store_mem (a : Nat) (bs : List Byte) :
    (s.store a bs).mem = s.mem.writeBytes s.glyphs a bs := rfl
@[simp] theorem State.store_draws (a : Nat) (bs : List Byte) : (s.store a bs).draws = s.draws := rfl

/-! ### State.construct -/

@[simp] theorem State.construct_v (q : Quirks) (g : GlyphTable) : (State.construct q g).v = Vector.replicate 16 0 := rfl
@[simp] theorem State.construct_idx (q : Quirks) (g : GlyphTable) : (State.construct q g).idx = 0 := rfl
@[simp] theorem State.construct_pc (q : Quirks) (g : GlyphTable) : (State.construct q g).pc = 0x200 := rfl
@[simp] theorem State.construct_stack (q : Quirks) (g : GlyphTable) : (State.construct q g).stack = Vector.replicate 16 0 :=
    rfl
@[simp] theorem State.construct_sp (q : Quirks) (g : GlyphTable) : (State.construct q g).sp = 0 := rfl
@[simp] theorem State.construct_dt (q : Quirks) (g : GlyphTable) : (State.construct q g).dt = 0 := rfl
@[simp] theorem State.construct_st (q : Quirks) (g : GlyphTable) : (State.construct q g).st = 0 := rfl
@[simp] theorem State.construct_fb (q : Quirks) (g : GlyphTable) : (State.construct q g).fb = Vector.replicate 64 (Vector.replicate 32 false) :=
    rfl
@[simp] theorem State.construct_keys (q : Quirks) (g : GlyphTable) : (State.construct q g).keys = Vector.replicate 16 false :=
    rfl
@[simp] theorem State.construct_latch (q : Quirks) (g : GlyphTable) : (State.construct q g).latch = .idle := rfl
@[simp] theorem State.construct_quirks (q : Quirks) (g : GlyphTable) : (State.construct q g).quirks = q := rfl
@[simp] theorem State.construct_fault (q : Quirks) (g : GlyphTable) : (State.construct q g).fault = none := rfl
@[simp] theorem State.construct_mem (q : Quirks) (g : GlyphTable) : (State.construct q g).mem = [] := rfl
@[simp] theorem State.construct_glyphs (q : Quirks) (g : GlyphTable) : (State.construct q g).glyphs = g := rfl
@[simp] theorem State.construct_draws (q : Quirks) (g : GlyphTable) : (State.construct q g).draws = 0 := rfl

/-! ### init -/

@[simp] theorem init_v : (init s).v = Vector.replicate 16 0 := rfl
@[simp] theorem init_idx : (init s).idx = 0 := rfl
@[simp] theorem init_pc : (init s).pc = 0x200 := rfl
@[simp] theorem init_stack : (init s).stack = Vector.replicate 16 0 := rfl
@[simp] theorem init_sp : (init s).sp = 0 := rfl
@[simp] theorem init_dt : (init s).dt = 0 := rfl
@[simp] theorem init_st : (init s).st = 0 := rfl
@[simp] theorem init_fb : (init s).fb = Vector.replicate 64 (Vector.replicate 32 false) := rfl
@[simp] theorem init_keys : (init s).keys = Vector.replicate 16 false := rfl
@[simp] theorem init_latch : (init s).latch = .idle := rfl
@[simp] theorem init_quirks : (init s).quirks = s.quirks := rfl
@[simp] theorem init_fault : (init s).fault = none := rfl
@[simp] theorem init_mem : (init s).mem = [] := rfl
@[simp] theorem init_glyphs : (init s).glyphs = s.glyphs := rfl
@[simp] theorem init_draws : (init s).draws = s.draws := rfl

/-! ### What a register reads -/

@[simp] theorem State.reg_setReg_same (x : RegIdx) (b : Byte) : (s.setReg x b).reg x = b := by
  simp [State.reg]

theorem State.reg_setReg_other {x y : RegIdx} (b : Byte) (h : y ≠ x) : (s.setReg x b).reg y = s.reg y := by
  have h' : x.val ≠ y.val := fun e => h (Fin.ext e.symm)
  simp [State.reg, h']

/-- A register after a write, the written one or another (R20). -/
theorem State.reg_setReg (x y : RegIdx) (b : Byte) : (s.setReg x b).reg y = if y = x then b else s.reg y := by
  split
  · next h => subst h; exact s.reg_setReg_same y b
  · next h => exact s.reg_setReg_other b h

/-- The flag is written last: VF always ends holding it, and `V[x]` the result unless `x = 15` (R161). -/
theorem State.reg_setResultAndFlag (x y : RegIdx) (r f : Byte) :
    (s.setResultAndFlag x r f).reg y = if y = 15 then f else if y = x then r else s.reg y := by
  simp [State.setResultAndFlag, State.reg_setReg]

@[simp] theorem State.reg_setIdx (a : Word) (x : RegIdx) : (s.setIdx a).reg x = s.reg x := rfl
@[simp] theorem State.reg_setPc (a : Word) (x : RegIdx) : (s.setPc a).reg x = s.reg x := rfl
@[simp] theorem State.reg_next2 (x : RegIdx) : s.next2.reg x = s.reg x := rfl
@[simp] theorem State.reg_skipIf (c : Bool) (x : RegIdx) : (s.skipIf c).reg x = s.reg x := rfl
@[simp] theorem State.reg_store (a : Nat) (bs : List Byte) (x : RegIdx) : (s.store a bs).reg x = s.reg x := rfl
@[simp] theorem reg_takeFault (k : FaultKind) (x : RegIdx) : (takeFault k s).reg x = s.reg x := rfl

/-! ### What a byte of memory reads -/

@[simp] theorem State.read_setReg (x : RegIdx) (b : Byte) (a : Nat) : (s.setReg x b).read a = s.read a := rfl
@[simp] theorem State.read_setIdx (i : Word) (a : Nat) : (s.setIdx i).read a = s.read a := rfl
@[simp] theorem State.read_setPc (w : Word) (a : Nat) : (s.setPc w).read a = s.read a := rfl
@[simp] theorem State.read_next2 (a : Nat) : s.next2.read a = s.read a := rfl
@[simp] theorem State.read_skipIf (c : Bool) (a : Nat) : (s.skipIf c).read a = s.read a := rfl
@[simp] theorem read_takeFault (k : FaultKind) (a : Nat) : (takeFault k s).read a = s.read a := rfl

/-- The draw counter is no operand: moving it changes no register. -/
@[simp] theorem State.reg_with_draws (n : Nat) (x : RegIdx) : State.reg { s with draws := n } x = s.reg x := rfl

end Sys2Proof.Machine
end

