-- ==== Sys2Proof/Laws/Ops.lean ====
section
/-!
SUPPORT. What each shared operation can do, said once: the range test, the stack, the key skip, the key wait, the register
load, the phases of a step.
-/

namespace Sys2Proof.Machine

/-! ### The range test -/

theorem withRange_ok {n : Nat} {s : State} (k : State) (h : inRange s.idx.toNat n = true) :
    withRange n s k = .next k := by
  simp [withRange, h]

theorem withRange_fault {n : Nat} {s : State} (k : State) (h : inRange s.idx.toNat n = false) :
    withRange n s k = .next (takeFault .dataOutOfBounds s) := by
  simp [withRange, h]

/-- A guarded access answers a next state: the whole effect, or the fault alone (R121). -/
theorem withRange_cases (n : Nat) (s k : State) :
    (inRange s.idx.toNat n = true ∧ withRange n s k = .next k) ∨
      (inRange s.idx.toNat n = false ∧ withRange n s k = .next (takeFault .dataOutOfBounds s)) := by
  cases h : inRange s.idx.toNat n
  · exact .inr ⟨rfl, withRange_fault k h⟩
  · exact .inl ⟨rfl, withRange_ok k h⟩

/-! ### The stack (R25) -/

theorem State.push_full {s : State} (a : Word) (h : s.sp.val = 16) : s.push a = none := by
  simp [State.push, h]

theorem State.push_room {s : State} (a : Word) (h : s.sp.val < 16) :
    s.push a = some { s with stack := s.stack.set s.sp.val a, sp := ⟨s.sp.val + 1, by omega⟩ } := by
  simp [State.push, h]

theorem State.pop_empty {s : State} (h : s.sp.val = 0) : s.pop = none := by
  simp [State.pop, h]

theorem State.pop_some {s : State} (h : 0 < s.sp.val) :
    s.pop = some (s.stack[s.sp.val - 1]'(by omega), { s with sp := ⟨s.sp.val - 1, by omega⟩ }) := by
  simp [State.pop, h]

/-! ### Keys (R272 to R276) -/

theorem keyIndex_some {b : Byte} (h : b.toNat < 16) : keyIndex b = some ⟨b.toNat, h⟩ := by
  simp [keyIndex, h]

theorem keyIndex_none {b : Byte} (h : 15 < b.toNat) : keyIndex b = none := by
  simp only [keyIndex, dif_neg (show ¬ b.toNat < 16 by omega)]

/-- A key skip faults on an index above 15 and else moves only the pc. -/
theorem skipOnKey_cases (want : Bool) (x : RegIdx) (s : State) :
    (15 < (s.reg x).toNat ∧ skipOnKey want x s = .next (takeFault .keyIndexOutOfRange s)) ∨
      (∃ h : (s.reg x).toNat < 16, skipOnKey want x s = .next (s.skipIf (s.keys[(s.reg x).toNat] == want))) := by
  by_cases h : (s.reg x).toNat < 16
  · exact .inr ⟨h, by simp [skipOnKey, keyIndex_some h]⟩
  · exact .inl ⟨by omega, by simp [skipOnKey, keyIndex_none (show 15 < (s.reg x).toNat by omega)]⟩

/-- The four ways a key wait goes on (R274 to R276). -/
theorem execLdVxK_cases (x : RegIdx) (s : State) :
    (s.latch = .idle ∧ execLdVxK x s = .next { s with latch := .waitingForPress }) ∨
      (s.latch = .waitingForPress ∧
        execLdVxK x s = .next (match leastPressed s.keys with
          | some k => { s with latch := .waitingForRelease k }
          | none => s)) ∨
      (∃ k : Fin 16, s.latch = .waitingForRelease k ∧ s.keys[k.val] = true ∧ execLdVxK x s = .next s) ∨
      (∃ k : Fin 16, s.latch = .waitingForRelease k ∧ s.keys[k.val] = false ∧
        execLdVxK x s = .next ({ s with latch := .idle, pc := s.pc + 2 }.setReg x (BitVec.ofNat 8 k.val))) := by
  unfold execLdVxK
  cases hl : s.latch with
  | idle => simp
  | waitingForPress => cases leastPressed s.keys <;> simp
  | waitingForRelease k =>
    cases hk : s.keys[k.val]
    · exact .inr (.inr (.inr ⟨k, rfl, hk, by simp [hk]⟩))
    · exact .inr (.inr (.inl ⟨k, rfl, hk, by simp [hk]⟩))

/-! ### Moving registers (R204, R205) -/

@[simp] theorem length_bcdDigits (b : Byte) : (bcdDigits b).length = 3 := rfl

@[simp] theorem length_regsUpTo (s : State) (x : RegIdx) : (regsUpTo s x).length = x.val + 1 := by
  simp [regsUpTo]

theorem getElem_regsUpTo (s : State) (x : RegIdx) (k : Nat) (h : k < (regsUpTo s x).length) :
    (regsUpTo s x)[k] = s.v[k]'(by simp at h; omega) := by
  simp [regsUpTo]

theorem getElem_loadRegs (read : Nat → Byte) (a n : Nat) (v : Vector Byte 16) (k : Nat) (hk : k < 16) :
    (loadRegs read a n v)[k] = if k < n then read (a + k) else v[k] := by
  induction n with
  | zero => simp [loadRegs]
  | succ n ih =>
    rw [loadRegs, Vector.getElem_setIfInBounds hk]
    by_cases h : n = k
    · subst h; simp
    · rw [if_neg h, ih]
      by_cases h1 : k < n
      · rw [if_pos h1, if_pos (by omega)]
      · rw [if_neg h1, if_neg (by omega)]

/-! ### The phases of a step (R304) -/

theorem phase_halted {s : State} {k : FaultKind} (h : s.fault = some k) : phase s = .halted k := by
  simp [phase, h]

theorem phase_fetchFault {s : State} {k : FaultKind} (h : s.fault = none) (hc : fetchCheck s.pc = some k) :
    phase s = .fetchFault k := by
  simp [phase, h, hc]

theorem phase_run {s : State} {i : Instr} (h : s.fault = none) (hc : fetchCheck s.pc = none)
    (hd : decodeWord (wordAt s s.pc.toNat) = .ok i) : phase s = .run i := by
  simp [phase, h, hc, hd]

theorem phase_unknown {s : State} {e : DecodeError} (h : s.fault = none) (hc : fetchCheck s.pc = none)
    (hd : decodeWord (wordAt s s.pc.toNat) = .error e) : phase s = .unknown (wordAt s s.pc.toNat) := by
  simp [phase, h, hc, hd]

/-- What each phase says of the state it was found in. -/
theorem phase_cases (s : State) :
    (∃ k, s.fault = some k ∧ phase s = .halted k) ∨
      (∃ k, s.fault = none ∧ fetchCheck s.pc = some k ∧ phase s = .fetchFault k) ∨
      (∃ e, s.fault = none ∧ fetchCheck s.pc = none ∧ decodeWord (wordAt s s.pc.toNat) = .error e ∧
        phase s = .unknown (wordAt s s.pc.toNat)) ∨
      (∃ i, s.fault = none ∧ fetchCheck s.pc = none ∧ decodeWord (wordAt s s.pc.toNat) = .ok i ∧
        phase s = .run i) := by
  cases hf : s.fault with
  | some k => exact .inl ⟨k, rfl, phase_halted hf⟩
  | none =>
    refine .inr ?_
    cases hc : fetchCheck s.pc with
    | some k => exact .inl ⟨k, rfl, rfl, phase_fetchFault hf hc⟩
    | none =>
      refine .inr ?_
      cases hd : decodeWord (wordAt s s.pc.toNat) with
      | error e => exact .inl ⟨e, rfl, rfl, rfl, phase_unknown hf hc hd⟩
      | ok i => exact .inr ⟨i, rfl, rfl, rfl, phase_run hf hc hd⟩

/-- The fetch checks as arithmetic (R112, R113). -/
theorem fetchCheck_none {pc : Word} : fetchCheck pc = none ↔ pc.toNat % 2 = 0 ∧ pc.toNat ≤ 4094 := by
  unfold fetchCheck
  split
  · simp; omega
  · split <;> simp <;> omega

end Sys2Proof.Machine
end

