-- ==== Sys2Proof/Laws/Display.lean ====
section
/-!
SUPPORT. The framebuffer as a function of the pixel: what one toggle changes (R238).
-/

namespace Sys2Proof.Machine

/-- A toggle flips its pixel and no other (R238). -/
theorem Framebuffer.pixel_toggle (fb : Framebuffer) (p q : Pixel) :
    Framebuffer.pixel (Framebuffer.toggle fb p) q =
      if q = p then !(Framebuffer.pixel fb p) else Framebuffer.pixel fb q := by
  obtain ⟨⟨px, hpx⟩, ⟨py, hpy⟩⟩ := p
  obtain ⟨⟨qx, hqx⟩, ⟨qy, hqy⟩⟩ := q
  simp only [Framebuffer.pixel, Framebuffer.toggle, Prod.mk.injEq, Fin.mk.injEq, Vector.getElem_set]
  by_cases hx : px = qx
  · subst hx
    by_cases hy : py = qy
    · subst hy; simp
    · simp [hy, Ne.symm hy]
  · simp [hx, Ne.symm hx]

/-- Two framebuffers with the same pixels are the same. -/
theorem Framebuffer.ext_pixel {a b : Framebuffer} (h : ∀ p, Framebuffer.pixel a p = Framebuffer.pixel b p) : a = b := by
  ext x hx y hy
  exact h (⟨x, hx⟩, ⟨y, hy⟩)

@[simp] theorem pixel_clear (p : Pixel) : Framebuffer.pixel clearFramebuffer p = false := by
  simp [Framebuffer.pixel, clearFramebuffer]

@[simp] theorem drawPixels_nil (acc : Framebuffer × Bool) : drawPixels [] acc = acc := rfl

theorem drawPixels_cons (p : Pixel) (ps : List Pixel) (fb : Framebuffer) (hit : Bool) :
    drawPixels (p :: ps) (fb, hit) =
      drawPixels ps (Framebuffer.toggle fb p, hit || Framebuffer.pixel fb p) := rfl

end Sys2Proof.Machine
end

