-- ==== Sys2Proof/Laws/PerInstr.lean ====
section
/-!
SUPPORT. Statements made per instruction. Family RowMatch: an instruction's encoding is matched by its own row of the
opcode table, and that row stands in the table (R84, R93).
-/

namespace Sys2Proof.Laws.RowMatch

/-- The instruction's word is matched by the instruction's row, and the row is one of the table's. -/
def Statement (i : Instr) : Prop := i.row.matchesWord (encode i) = true ∧ i.row ∈ opcodeTable

/-- A row matches by its number. -/
theorem matches_of_toNat {r : OpcodeRow} {w : Word} (h : (w &&& r.mask).toNat = r.value.toNat) :
    r.matchesWord w = true := by
  simpa [OpcodeRow.matchesWord] using BitVec.eq_of_toNat_eq h

theorem matches_formatA {r : OpcodeRow} {op : Nat} (nnn : Addr12) (h : op < 16) (hm : r.mask = 0xF000)
    (hv : r.value.toNat = op * 4096) : r.matchesWord (formatA op nnn) = true := by
  refine matches_of_toNat ?_
  have := nnn.isLt
  rw [hm, hv, and_F000, toNat_formatA h]
  omega

theorem matches_formatXK {r : OpcodeRow} {op : Nat} (x : RegIdx) (kk : Byte) (h : op < 16) (hm : r.mask = 0xF000)
    (hv : r.value.toNat = op * 4096) : r.matchesWord (formatXK op x kk) = true := by
  refine matches_of_toNat ?_
  have := kk.isLt
  rw [hm, hv, and_F000, toNat_formatXK h]
  omega

theorem matches_formatXY {r : OpcodeRow} {op : Nat} (x y : RegIdx) (n : Fin 16) (h : op < 16) (hm : r.mask = 0xF000)
    (hv : r.value.toNat = op * 4096) : r.matchesWord (formatXY op x y n) = true := by
  refine matches_of_toNat ?_
  rw [hm, hv, and_F000, toNat_formatXY h]
  omega

theorem matches_formatXYS {r : OpcodeRow} {op : Nat} (x y : RegIdx) (n : Fin 16) (h : op < 16) (hm : r.mask = 0xF00F)
    (hv : r.value.toNat = op * 4096 + n.val) : r.matchesWord (formatXY op x y n) = true := by
  refine matches_of_toNat ?_
  rw [hm, hv, and_F00F, toNat_formatXY h]
  omega

theorem matches_formatXS {r : OpcodeRow} {op : Nat} (x : RegIdx) (kk : Byte) (h : op < 16) (hm : r.mask = 0xF0FF)
    (hv : r.value.toNat = op * 4096 + kk.toNat) : r.matchesWord (formatXK op x kk) = true := by
  refine matches_of_toNat ?_
  have := kk.isLt
  rw [hm, hv, and_F0FF, toNat_formatXK h]
  omega

theorem cls : Statement .cls := ⟨by decide, by decide⟩

theorem ret : Statement .ret := ⟨by decide, by decide⟩

theorem jp (nnn : Addr12) : Statement (.jp nnn) :=
  ⟨matches_formatA nnn (by decide) rfl rfl, (by decide : (Instr.row (.jp 0)) ∈ opcodeTable)⟩

theorem call (nnn : Addr12) : Statement (.call nnn) :=
  ⟨matches_formatA nnn (by decide) rfl rfl, (by decide : (Instr.row (.call 0)) ∈ opcodeTable)⟩

theorem seImm (x : RegIdx) (kk : Byte) : Statement (.seImm x kk) :=
  ⟨matches_formatXK x kk (by decide) rfl rfl, (by decide : (Instr.row (.seImm 0 0)) ∈ opcodeTable)⟩

theorem sneImm (x : RegIdx) (kk : Byte) : Statement (.sneImm x kk) :=
  ⟨matches_formatXK x kk (by decide) rfl rfl, (by decide : (Instr.row (.sneImm 0 0)) ∈ opcodeTable)⟩

theorem seReg (x y : RegIdx) : Statement (.seReg x y) :=
  ⟨matches_formatXY x y 0 (by decide) rfl rfl, (by decide : (Instr.row (.seReg 0 0)) ∈ opcodeTable)⟩

theorem ldImm (x : RegIdx) (kk : Byte) : Statement (.ldImm x kk) :=
  ⟨matches_formatXK x kk (by decide) rfl rfl, (by decide : (Instr.row (.ldImm 0 0)) ∈ opcodeTable)⟩

theorem addImm (x : RegIdx) (kk : Byte) : Statement (.addImm x kk) :=
  ⟨matches_formatXK x kk (by decide) rfl rfl, (by decide : (Instr.row (.addImm 0 0)) ∈ opcodeTable)⟩

theorem ldReg (x y : RegIdx) : Statement (.ldReg x y) :=
  ⟨matches_formatXYS x y _ (by decide) rfl rfl, (by decide : (Instr.row (.ldReg 0 0)) ∈ opcodeTable)⟩

theorem orReg (x y : RegIdx) : Statement (.orReg x y) :=
  ⟨matches_formatXYS x y _ (by decide) rfl rfl, (by decide : (Instr.row (.orReg 0 0)) ∈ opcodeTable)⟩

theorem andReg (x y : RegIdx) : Statement (.andReg x y) :=
  ⟨matches_formatXYS x y _ (by decide) rfl rfl, (by decide : (Instr.row (.andReg 0 0)) ∈ opcodeTable)⟩

theorem xorReg (x y : RegIdx) : Statement (.xorReg x y) :=
  ⟨matches_formatXYS x y _ (by decide) rfl rfl, (by decide : (Instr.row (.xorReg 0 0)) ∈ opcodeTable)⟩

theorem addReg (x y : RegIdx) : Statement (.addReg x y) :=
  ⟨matches_formatXYS x y _ (by decide) rfl rfl, (by decide : (Instr.row (.addReg 0 0)) ∈ opcodeTable)⟩

theorem sub (x y : RegIdx) : Statement (.sub x y) :=
  ⟨matches_formatXYS x y _ (by decide) rfl rfl, (by decide : (Instr.row (.sub 0 0)) ∈ opcodeTable)⟩

theorem shr (x y : RegIdx) : Statement (.shr x y) :=
  ⟨matches_formatXYS x y _ (by decide) rfl rfl, (by decide : (Instr.row (.shr 0 0)) ∈ opcodeTable)⟩

theorem subn (x y : RegIdx) : Statement (.subn x y) :=
  ⟨matches_formatXYS x y _ (by decide) rfl rfl, (by decide : (Instr.row (.subn 0 0)) ∈ opcodeTable)⟩

theorem shl (x y : RegIdx) : Statement (.shl x y) :=
  ⟨matches_formatXYS x y _ (by decide) rfl rfl, (by decide : (Instr.row (.shl 0 0)) ∈ opcodeTable)⟩

theorem sneReg (x y : RegIdx) : Statement (.sneReg x y) :=
  ⟨matches_formatXY x y 0 (by decide) rfl rfl, (by decide : (Instr.row (.sneReg 0 0)) ∈ opcodeTable)⟩

theorem ldI (nnn : Addr12) : Statement (.ldI nnn) :=
  ⟨matches_formatA nnn (by decide) rfl rfl, (by decide : (Instr.row (.ldI 0)) ∈ opcodeTable)⟩

theorem jpV0 (nnn : Addr12) : Statement (.jpV0 nnn) :=
  ⟨matches_formatA nnn (by decide) rfl rfl, (by decide : (Instr.row (.jpV0 0)) ∈ opcodeTable)⟩

theorem rnd (x : RegIdx) (kk : Byte) : Statement (.rnd x kk) :=
  ⟨matches_formatXK x kk (by decide) rfl rfl, (by decide : (Instr.row (.rnd 0 0)) ∈ opcodeTable)⟩

theorem drw (x y : RegIdx) (n : Fin 16) : Statement (.drw x y n) :=
  ⟨matches_formatXY x y n (by decide) rfl rfl, (by decide : (Instr.row (.drw 0 0 0)) ∈ opcodeTable)⟩

theorem skp (x : RegIdx) : Statement (.skp x) :=
  ⟨matches_formatXS x _ (by decide) rfl rfl, (by decide : (Instr.row (.skp 0)) ∈ opcodeTable)⟩

theorem sknp (x : RegIdx) : Statement (.sknp x) :=
  ⟨matches_formatXS x _ (by decide) rfl rfl, (by decide : (Instr.row (.sknp 0)) ∈ opcodeTable)⟩

theorem ldVxDt (x : RegIdx) : Statement (.ldVxDt x) :=
  ⟨matches_formatXS x _ (by decide) rfl rfl, (by decide : (Instr.row (.ldVxDt 0)) ∈ opcodeTable)⟩

theorem ldVxK (x : RegIdx) : Statement (.ldVxK x) :=
  ⟨matches_formatXS x _ (by decide) rfl rfl, (by decide : (Instr.row (.ldVxK 0)) ∈ opcodeTable)⟩

theorem ldDtVx (x : RegIdx) : Statement (.ldDtVx x) :=
  ⟨matches_formatXS x _ (by decide) rfl rfl, (by decide : (Instr.row (.ldDtVx 0)) ∈ opcodeTable)⟩

theorem ldStVx (x : RegIdx) : Statement (.ldStVx x) :=
  ⟨matches_formatXS x _ (by decide) rfl rfl, (by decide : (Instr.row (.ldStVx 0)) ∈ opcodeTable)⟩

theorem addIVx (x : RegIdx) : Statement (.addIVx x) :=
  ⟨matches_formatXS x _ (by decide) rfl rfl, (by decide : (Instr.row (.addIVx 0)) ∈ opcodeTable)⟩

theorem ldFVx (x : RegIdx) : Statement (.ldFVx x) :=
  ⟨matches_formatXS x _ (by decide) rfl rfl, (by decide : (Instr.row (.ldFVx 0)) ∈ opcodeTable)⟩

theorem ldBVx (x : RegIdx) : Statement (.ldBVx x) :=
  ⟨matches_formatXS x _ (by decide) rfl rfl, (by decide : (Instr.row (.ldBVx 0)) ∈ opcodeTable)⟩

theorem ldMiVx (x : RegIdx) : Statement (.ldMiVx x) :=
  ⟨matches_formatXS x _ (by decide) rfl rfl, (by decide : (Instr.row (.ldMiVx 0)) ∈ opcodeTable)⟩

theorem ldVxMi (x : RegIdx) : Statement (.ldVxMi x) :=
  ⟨matches_formatXS x _ (by decide) rfl rfl, (by decide : (Instr.row (.ldVxMi 0)) ∈ opcodeTable)⟩

end Sys2Proof.Laws.RowMatch
end

