-- ==== Sys2Proof/Tests/Slice0.lean ====
section
/-!
SUPPORT. The model's own tests. Decoding: words written out bit by bit from the formats of R81 and the rows of R84 to R89.
Instructions: the vectors of spec/95_test_vectors.md, by their names there. Witnesses: for every statement with hypotheses,
a state and operands that meet them, each clause at a boundary of its range.
-/

namespace Sys2Proof.Tests

open Sys2Proof.Machine

/-- A machine with the legacy quirks and wrap-both, right after `init`. -/
def base : State := State.constructDefault ⟨.legacy, .legacy, .wrapBoth⟩

/-- The same with the revised quirks and clip. -/
def revised : State := State.constructDefault ⟨.revised, .revised, .clip⟩

/-- `s` with registers V0, V1, V2 and VF. -/
def withV (s : State) (v0 v1 v2 vf : Byte) : State := (((s.setReg 0 v0).setReg 1 v1).setReg 2 v2).setReg 15 vf

/-- One step on the word `w`, placed where the step fetches. -/
def run1 (w : Nat) (s : State) : State := stepState (s.withFetchWord 16 w)

/-- What that step returns. -/
def out1 (w : Nat) (s : State) : StepOutput := stepOutput (s.withFetchWord 16 w)

/-- `s` with bytes stored at 0x300 and I there. -/
def withData (s : State) (bytes : List Byte) : State := { s.store 0x300 bytes with idx := 0x300 }

/-- The pixel at column `x`, row `y`. -/
def px (s : State) (x : Fin 64) (y : Fin 32) : Bool := Framebuffer.pixel s.fb (x, y)

/-- Three bytes of memory. -/
def bytes3 (s : State) (a : Nat) : List Byte := s.readBytes a 3

/-! ## Decoding, from the spec's bit patterns (R81, R84 to R89) -/

theorem test_decode_families_0_to_2 :
    decodeWord 0b0000000011100000 = .ok .cls ∧ decodeWord 0b0000000011101110 = .ok .ret ∧
    decodeWord 0b0001101010111100 = .ok (.jp 0xABC) ∧ decodeWord 0b0010000000000001 = .ok (.call 0x001) := by decide

theorem test_decode_families_3_to_7 :
    decodeWord 0b0011001100000101 = .ok (.seImm 3 0x05) ∧ decodeWord 0b0100111110000001 = .ok (.sneImm 15 0x81) ∧
    decodeWord 0b0101000100100000 = .ok (.seReg 1 2) ∧ decodeWord 0b0110000000001010 = .ok (.ldImm 0 0x0A) ∧
    decodeWord 0b0111000000000101 = .ok (.addImm 0 0x05) := by decide

theorem test_decode_family_8 :
    decodeWord 0b1000000100100000 = .ok (.ldReg 1 2) ∧ decodeWord 0b1000000100100001 = .ok (.orReg 1 2) ∧
    decodeWord 0b1000000100100010 = .ok (.andReg 1 2) ∧ decodeWord 0b1000000100100011 = .ok (.xorReg 1 2) ∧
    decodeWord 0b1000000100100100 = .ok (.addReg 1 2) ∧ decodeWord 0b1000000100100101 = .ok (.sub 1 2) ∧
    decodeWord 0b1000000000010110 = .ok (.shr 0 1) ∧ decodeWord 0b1000000100100111 = .ok (.subn 1 2) ∧
    decodeWord 0b1000000100101110 = .ok (.shl 1 2) := by decide

theorem test_decode_families_9_to_D :
    decodeWord 0b1001000100100000 = .ok (.sneReg 1 2) ∧ decodeWord 0b1010001100000000 = .ok (.ldI 0x300) ∧
    decodeWord 0b1011001100000000 = .ok (.jpV0 0x300) ∧ decodeWord 0b1100000100001111 = .ok (.rnd 1 0x0F) ∧
    decodeWord 0b1101000000010101 = .ok (.drw 0 1 5) := by decide

theorem test_decode_families_E_and_F :
    decodeWord 0b1110010110011110 = .ok (.skp 5) ∧ decodeWord 0b1110010110100001 = .ok (.sknp 5) ∧
    decodeWord 0b1111001100000111 = .ok (.ldVxDt 3) ∧ decodeWord 0b1111001100001010 = .ok (.ldVxK 3) ∧
    decodeWord 0b1111001100010101 = .ok (.ldDtVx 3) ∧ decodeWord 0b1111001100011000 = .ok (.ldStVx 3) ∧
    decodeWord 0b1111001000011110 = .ok (.addIVx 2) ∧ decodeWord 0b1111000000101001 = .ok (.ldFVx 0) ∧
    decodeWord 0b1111000000110011 = .ok (.ldBVx 0) ∧ decodeWord 0b1111000101010101 = .ok (.ldMiVx 1) ∧
    decodeWord 0b1111001001100101 = .ok (.ldVxMi 2) := by decide

/-- The bytes in memory order, the first the high one (R52); a lone byte is no instruction. -/
theorem test_decode_bytes :
    decode [0x60, 0x0A, 0x70, 0x05] = .ok (.ldImm 0 0x0A, [0x70, 0x05]) ∧ decode [0x60] = .error .truncated ∧
    decodeTableWord 16 0x600A = some (.ldImm 0 0x0A) := by decide

/-! ## Ill-formed words, one per family that has them (R85, R87, R88, R89) -/

theorem test_illformed_family_0 :
    Word.wellFormed 0x0000 = false ∧ Word.wellFormed 0x0123 = false ∧ Word.wellFormed 0x00E1 = false ∧
    decodeWord 0x0123 = .error (.unknown 0x0123) := by decide

theorem test_illformed_family_8 :
    Word.wellFormed 0x8008 = false ∧ Word.wellFormed 0x812F = false ∧
    decodeWord 0x8129 = .error (.unknown 0x8129) := by decide

theorem test_illformed_family_E :
    Word.wellFormed 0xE1A0 = false ∧ Word.wellFormed 0xE09F = false ∧
    decodeWord 0xE1A0 = .error (.unknown 0xE1A0) := by decide

theorem test_illformed_family_F :
    Word.wellFormed 0xF000 = false ∧ Word.wellFormed 0xF1FF = false ∧
    decodeWord 0xF130 = .error (.unknown 0xF130) := by decide

/-! ## The step (V-DEC) -/

/-- V-DEC-1. -/
theorem test_unknown_word : run1 0x0000 base = { base with pc := 0x202 } ∧
    out1 0x0000 base = ⟨false, .unknown 0x0000 0x200⟩ := by decide

/-- V-DEC-5, V-DEC-7, V-DEC-8. -/
theorem test_fetch_faults :
    stepState { base with pc := 0x201 } = { base with pc := 0x201, fault := some .misalignedFetch } ∧
    stepState { base with pc := 0x1000 } = { base with pc := 0x1000, fault := some .fetchOutOfBounds } ∧
    (stepState { base with pc := 0x0FFF }).fault = some .misalignedFetch := by decide

/-- V-DEC-6: the last word of memory runs. -/
theorem test_last_word : (run1 0x6001 { base with pc := 0x0FFE }).reg 0 = 1 ∧
    (run1 0x6001 { base with pc := 0x0FFE }).pc = 0x1000 := by decide

/-- V-DEC-9. -/
theorem test_fault_state : step { base with fault := some .stackOverflow } = .next { base with fault := some .stackOverflow } ∧
    stepOutput { base with fault := some .stackOverflow } = ⟨false, .faulted .stackOverflow⟩ := ⟨rfl, by decide⟩

/-! ## Control transfer (V-CF) -/

/-- V-CF-1. -/
theorem test_jp : (run1 0x1ABC base).pc = 0xABC := by decide

/-- V-CF-3, V-CF-6. -/
theorem test_call : (run1 0x2400 { base with pc := 0x300 }).pc = 0x400 ∧
    (run1 0x2400 { base with pc := 0x300 }).sp = 1 ∧ (run1 0x2400 { base with pc := 0x300 }).stack[0] = 0x302 ∧
    (run1 0x2300 { base with sp := 16 }).fault = some .stackOverflow ∧
    (run1 0x2300 { base with sp := 16 }).pc = 0x200 := by decide

/-- V-CF-4, V-CF-5. -/
theorem test_ret : (run1 0x00EE { base with sp := 1, stack := base.stack.set 0 0x302 }).pc = 0x302 ∧
    (run1 0x00EE { base with sp := 1, stack := base.stack.set 0 0x302 }).sp = 0 ∧
    (run1 0x00EE { base with sp := 1, stack := base.stack.set 0 0x302 }).stack[0] = 0x302 ∧
    (run1 0x00EE base).fault = some .stackUnderflow := by decide

/-- V-CF-7. -/
theorem test_seImm : (run1 0x3305 ({ base with pc := 0x206 }.setReg 3 5)).pc = 0x20A ∧
    (run1 0x3306 ({ base with pc := 0x206 }.setReg 3 5)).pc = 0x208 := by decide

/-- V-CF-8. -/
theorem test_sneImm : (run1 0x4305 ({ base with pc := 0x206 }.setReg 3 5)).pc = 0x208 ∧
    (run1 0x4306 ({ base with pc := 0x206 }.setReg 3 5)).pc = 0x20A := by decide

/-- V-DEC-10, and its negative. -/
theorem test_seReg : (run1 0x5121 (withV base 0 7 7 0)).pc = 0x204 ∧ (run1 0x5120 (withV base 0 7 8 0)).pc = 0x202 := by
  decide

/-- V-DEC-11, V-CF-10. -/
theorem test_sneReg : (run1 0x912F (withV base 0 7 8 0)).pc = 0x204 ∧ (run1 0x9110 (withV base 0 0x10 0 0)).pc = 0x202 := by
  decide

/-- V-CF-12, V-CF-13. -/
theorem test_jpV0 : (run1 0xBFFF (withV base 0xFF 0 0 0)).pc = 0x10FE ∧
    (run1 0xB300 (withV base 0x01 0 0 0)).pc = 0x301 := by decide

/-! ## Registers and ALU (V-ALU, W1) -/

/-- W1: the two words of the source's first example. -/
theorem test_ldImm_addImm : (run1 0x600A base).reg 0 = 0x0A ∧ (run1 0x7005 (withV base 0x0A 0 0 0)).reg 0 = 0x0F ∧
    (run1 0x7001 (withV base 0xFF 0 0 0x55)).reg 0 = 0 ∧ (run1 0x7001 (withV base 0xFF 0 0 0x55)).reg 15 = 0x55 := by
  decide

/-- V-ALU-4. -/
theorem test_ldReg : (run1 0x8120 (withV base 0 0 0x33 0x55)).reg 1 = 0x33 ∧
    (run1 0x8120 (withV base 0 0 0x33 0x55)).reg 15 = 0x55 := by decide

/-- The examples of R165, R166, R167; VF as in V-ALU-5. -/
theorem test_bitwise : (run1 0x8121 (withV base 0 0x0F 0xF0 0x55)).reg 1 = 0xFF ∧
    (run1 0x8122 (withV base 0 0x3C 0x0F 0x55)).reg 1 = 0x0C ∧
    (run1 0x8123 (withV base 0 0x3C 0x0F 0x55)).reg 1 = 0x33 ∧
    (run1 0x8123 (withV base 0 0x3C 0x0F 0x55)).reg 15 = 0x55 := by decide

/-- V-ALU-7, V-ALU-8, V-ALU-11. -/
theorem test_addReg : (run1 0x8124 (withV base 0 0xFF 1 0)).reg 1 = 0 ∧ (run1 0x8124 (withV base 0 0xFF 1 0)).reg 15 = 1 ∧
    (run1 0x8124 (withV base 0 0x7F 0x80 0)).reg 15 = 0 ∧ (run1 0x8F24 (withV base 0 0 1 1)).reg 15 = 0 := by decide

/-- V-ALU-12, V-ALU-13. -/
theorem test_sub : (run1 0x8125 (withV base 0 5 5 0)).reg 15 = 1 ∧ (run1 0x8125 (withV base 0 0 1 0)).reg 1 = 0xFF ∧
    (run1 0x8125 (withV base 0 0 1 9)).reg 15 = 0 := by decide

/-- V-ALU-15, V-ALU-16. -/
theorem test_subn : (run1 0x8127 (withV base 0 5 3 9)).reg 1 = 0xFE ∧ (run1 0x8127 (withV base 0 5 3 9)).reg 15 = 0 ∧
    (run1 0x8127 (withV base 0 3 5 0)).reg 1 = 2 ∧ (run1 0x8127 (withV base 0 3 5 0)).reg 15 = 1 := by decide

/-- V-ALU-18 (W2), V-ALU-19, V-ALU-20. -/
theorem test_shr : (run1 0x8016 (withV base 0xAA 3 0 0)).reg 0 = 1 ∧ (run1 0x8016 (withV base 0xAA 3 0 0)).reg 15 = 1 ∧
    (run1 0x8016 (withV revised 0xAA 3 0 9)).reg 0 = 0x55 ∧ (run1 0x8F06 (withV revised 0 0 0 2)).reg 15 = 0 := by decide

/-- V-ALU-21, V-ALU-22. -/
theorem test_shl : (run1 0x801E (withV base 0 0x81 0 0)).reg 0 = 2 ∧ (run1 0x801E (withV base 0 0x81 0 0)).reg 15 = 1 ∧
    (run1 0x801E (withV revised 0x40 0x81 0 9)).reg 0 = 0x80 ∧
    (run1 0x801E (withV revised 0x40 0x81 0 9)).reg 15 = 0 := by decide

/-- V-ALU-24, V-ALU-26: the effect of a given draw. -/
theorem test_rnd : (rndWith 0xA7 1 0x0F base).reg 1 = 7 ∧ (rndWith 0x5C 1 0xFF base).reg 1 = 0x5C ∧
    (run1 0xC10F base).pc = 0x202 ∧ (run1 0xC10F base).draws = 1 := by decide

/-! ## Index register and memory (V-MEM) -/

/-- V-MEM-1. -/
theorem test_ldI : (run1 0xA123 base).idx = 0x123 := by decide

/-- V-MEM-2, V-MEM-3. -/
theorem test_addIVx : (run1 0xF01E (withV { base with idx := 0x0FFF } 1 0 0 0)).idx = 0x1000 ∧
    (run1 0xF01E (withV { base with idx := 0xFFFF } 2 0 0 0)).idx = 1 := by decide

/-- V-MEM-4. -/
theorem test_ldFVx : (run1 0xF029 (withV base 0x0A 0 0 0)).idx = 0x082 ∧
    (run1 0xF029 (withV base 0xFF 0 0 0)).idx = 0x54B := by decide

/-- V-MEM-5, V-MEM-6, V-MEM-7. -/
theorem test_ldBVx : bytes3 (run1 0xF033 (withV { base with idx := 0x300 } 254 0 0 0)) 0x300 = [2, 5, 4] ∧
    bytes3 (run1 0xF033 (withV { base with idx := 0xFFD } 123 0 0 0)) 0xFFD = [1, 2, 3] ∧
    (run1 0xF033 (withV { base with idx := 0xFFE } 123 0 0 0)).fault = some .dataOutOfBounds ∧
    (run1 0xF033 (withV { base with idx := 0xFFE } 123 0 0 0)).read 0xFFE = 0 := by decide

/-- V-MEM-8, V-MEM-9. -/
theorem test_ldMiVx : bytes3 (run1 0xF255 (withV { base with idx := 0x300 } 1 2 3 0)) 0x300 = [1, 2, 3] ∧
    (run1 0xF255 (withV { base with idx := 0x300 } 1 2 3 0)).idx = 0x303 ∧
    (run1 0xF255 (withV { revised with idx := 0x300 } 1 2 3 0)).idx = 0x300 := by decide

/-- V-MEM-10, V-MEM-11, V-MEM-15. -/
theorem test_ldMiVx_bounds : (run1 0xFF55 (withV { base with idx := 0xFF0 } 0 0 0 0x0F)).read 0xFFF = 0x0F ∧
    (run1 0xFF55 { base with idx := 0xFF0 }).idx = 0x1000 ∧
    (run1 0xFF55 { base with idx := 0xFF1 }).fault = some .dataOutOfBounds ∧
    (run1 0xF055 (withV { base with idx := 0x050 } 0xFF 0 0 0)).read 0x050 = 0xFF := by decide

/-- V-MEM-12, V-MEM-14. -/
theorem test_ldVxMi : (run1 0xF265 (withData base [2, 5, 4])).reg 0 = 2 ∧ (run1 0xF265 (withData base [2, 5, 4])).reg 2 = 4 ∧
    (run1 0xF265 (withData base [2, 5, 4])).idx = 0x303 ∧
    (run1 0xF065 { base with idx := 0x1000 }).fault = some .dataOutOfBounds := by decide

/-- V-MEM-13: VF is loaded as plain data. -/
theorem test_ldVxMi_vf : (run1 0xFF65 ({ revised with idx := 0x300 }.store 0x30F [0xAB])).reg 15 = 0xAB ∧
    (run1 0xFF65 (withData revised [])).idx = 0x300 := by decide

/-! ## Display (V-DRW) -/

/-- V-DRW-0. -/
theorem test_cls : (run1 0x00E0 (withV { base with fb := Framebuffer.toggle base.fb (5, 6) } 0 0 0 0x33)).fb = base.fb ∧
    (run1 0x00E0 (withV base 0 0 0 0x33)).reg 15 = 0x33 ∧ out1 0x00E0 base = ⟨true, .none⟩ := by decide

/-- V-DRW-3, V-DRW-7a. -/
theorem test_drw_wrap : (let t := run1 0xD011 (withV (withData base [0xF0]) 0x3E 0 0 0)
    px t 62 0 = true ∧ px t 63 0 = true ∧ px t 0 0 = true ∧ px t 1 0 = true ∧ t.reg 15 = 0) ∧
    (let t := run1 0xD011 { withData base [0xC0] with fb := Framebuffer.toggle base.fb (0, 0) }
    px t 0 0 = false ∧ px t 1 0 = true ∧ t.reg 15 = 1) := by decide

/-- V-DRW-6, V-DRW-11, V-DRW-13. -/
theorem test_drw_corners : (let t := run1 0xD012 (withV (withData revised [0x80, 0x80]) 0 31 0 0)
    px t 0 31 = true ∧ px t 0 0 = false) ∧
    (let t := run1 0xD012 (withV { base with idx := 0xFFF } 0 0 0 0x77)
    t.fault = some .dataOutOfBounds ∧ t.reg 15 = 0x77 ∧ t.fb = base.fb) ∧
    (let t := run1 0xDF11 (withV (withData base [0x80]) 0 0 0 5)
    px t 5 0 = true ∧ t.reg 15 = 0) := by decide

/-! ## Timers (V-TMR) -/

/-- V-TMR-4, V-TMR-5, V-TMR-3. -/
theorem test_timers : (run1 0xF307 { base with dt := 0x3C }).reg 3 = 0x3C ∧ (run1 0xF315 (base.setReg 3 0x3C)).dt = 0x3C ∧
    (run1 0xF018 { base with st := 1 }).st = 0 ∧ (tickTimers (run1 0xF018 { base with st := 1 })).2 = false := by decide

/-- V-TMR-6, V-TMR-7. -/
theorem test_tick :
    tickTimers { base with dt := 3, st := 1, fault := some .stackUnderflow } =
      ({ base with dt := 2, st := 0, fault := some .stackUnderflow }, true) ∧
    tickTimers { base with dt := 5 } = ({ base with dt := 4 }, false) := by decide

/-! ## Input (V-IN) -/

/-- Keys with one pressed. -/
def key (k : Fin 16) : Vector Bool 16 := (Vector.replicate 16 false).set k.val true

/-- V-IN-1, V-IN-2, V-IN-3. -/
theorem test_skp_sknp : (run1 0xE59E ({ base with pc := 0x300, keys := key 7 }.setReg 5 7)).pc = 0x304 ∧
    (run1 0xE5A1 ({ base with pc := 0x300, keys := key 7 }.setReg 5 7)).pc = 0x302 ∧
    (run1 0xE5A1 ({ base with pc := 0x300 }.setReg 5 7)).pc = 0x304 ∧
    (run1 0xE59E ({ base with pc := 0x300 }.setReg 5 0x10)).fault = some .keyIndexOutOfRange := by decide

/-- V-IN-4, V-IN-5, V-IN-6, V-IN-7. -/
theorem test_wait_press : (run1 0xF10A { base with keys := key 3 }).latch = .waitingForPress ∧
    (run1 0xF10A { base with latch := .waitingForPress }).latch = .waitingForPress ∧
    (run1 0xF10A { base with latch := .waitingForPress, keys := key 15 }).latch = .waitingForRelease 15 ∧
    (run1 0xF10A { base with latch := .waitingForPress, keys := (key 9).set 4 true }).latch = .waitingForRelease 4 ∧
    (run1 0xF10A { base with latch := .waitingForPress, keys := key 15 }).pc = 0x200 := by decide

/-- V-IN-8, V-IN-9, V-IN-10. -/
theorem test_wait_release : (run1 0xF10A { base with latch := .waitingForRelease 4, keys := key 4 }).pc = 0x200 ∧
    (run1 0xF10A { base with latch := .waitingForRelease 4, keys := key 9 }).reg 1 = 4 ∧
    (run1 0xF10A { base with latch := .waitingForRelease 4, keys := key 9 }).pc = 0x202 ∧
    (run1 0xFF0A { base with latch := .waitingForRelease 15 }).reg 15 = 15 := by decide

/-! ## Reset and load (V-RST) -/

/-- V-RST-1, V-RST-5: the glyphs of digits 0 and F, and what `init` clears and keeps. -/
theorem test_init : bytes3 base 0x050 = [0xF0, 0x90, 0x90] ∧ bytes3 base 0x09D = [0xF0, 0x80, 0x80] ∧
    base.read 0x0A0 = 0 ∧ (init { revised with fault := some .stackOverflow, pc := 4 }).fault = none ∧
    init { revised with fault := some .stackOverflow, pc := 4 } = revised := by decide

/-- Another glyph table than the default is installed as it is, and again after its bytes are overwritten (R6, R342). -/
theorem test_other_glyphs :
    bytes3 (State.construct ⟨.legacy, .legacy, .clip⟩ (Vector.replicate 80 0xAA)) 0x09D = [0xAA, 0xAA, 0xAA] ∧
    bytes3 (init ((State.construct ⟨.legacy, .legacy, .clip⟩ (Vector.replicate 80 0xAA)).store 0x050 [1, 2, 3])) 0x050 =
      [0xAA, 0xAA, 0xAA] := by decide

/-- V-RST-3, V-RST-4. -/
theorem test_load : load [] base = (base, .ok) ∧
    (load [0x60, 0x01] { base with fault := some .stackOverflow }).1.fault = some .stackOverflow ∧
    wordAt (load [0x60, 0x01] base).1 0x200 = 0x6001 := by decide

/-! ## Witnesses: the hypotheses of each statement, met together -/

theorem witness_InitIsCompleteAndIdempotent : base.quirks = (withV base 1 2 3 4).quirks ∧
    base.glyphs = (withV base 1 2 3 4).glyphs := ⟨rfl, rfl⟩

theorem witness_LoadCopiesImageOnly :
    (List.replicate 3584 (0xAB : Byte)).length ≤ 3584 ∧ (3583 : Nat) < (List.replicate 3584 (0xAB : Byte)).length ∧
    (List.replicate 3585 (0xAB : Byte)).length > 3584 := by
  simp only [List.length_replicate]; omega

theorem witness_InitSetsEveryElement : (15 : Nat) < 16 ∧ (4 : Nat) < 5 ∧ HostOp.step ≠ .init ∧
    ({ base with fault := some .stackOverflow } : State).fault = some .stackOverflow := by decide

theorem witness_TickCountsBothTimersDown : HostOp.step ≠ .tickTimers := by decide

theorem witness_EncodeOfDecodeIsTheWord : decodeWord 0xDFFF = .ok (.drw 15 15 15) ∧
    (0xDFFF : Word).toNat / 4096 ≠ 5 ∧ (0xDFFF : Word).toNat / 4096 ≠ 9 ∧
    decodeWord 0x512F = .ok (.seReg 1 2) ∧ (0x512F : Word).toNat / 4096 = 5 ∧
    decodeWord 0x912F = .ok (.sneReg 1 2) ∧ (0x912F : Word).toNat / 4096 = 9 := by decide

theorem witness_DecoderFollowsOpcodeTable : decodeWord 0x8016 = .ok (.shr 0 1) ∧ Instr.row .cls ∈ opcodeTable ∧
    (Instr.row .cls).matchesWord 0x00E0 = true := by decide

theorem witness_UnknownWordsAreReportedAndPassed :
    Fetches { base with pc := 4094 } ∧ Unassigned (fetchedWord { base with pc := 4094 }) :=
  ⟨by unfold Fetches; decide, by unfold Unassigned; decide⟩

/-- The last word of memory holds JP 0x300. -/
def atTop : State := { base.store 4094 [0x13, 0x00] with pc := 4094 }

theorem witness_StepRunsTheDecodedInstruction :
    Fetches atTop ∧ decodeWord (BitVec.ofNat 16 (fetchedWord atTop)) = .ok (.jp 0x300) :=
  ⟨by unfold Fetches; decide, by decide⟩

theorem witness_PlacedWordIsTheNextInstruction : decodeTableWord 16 0xFF65 = some (.ldVxMi 15) := by decide

/-- A state that has faulted. -/
def halted : State := takeFault .stackUnderflow base

theorem witness_FaultStateStepChangesNothing : halted.fault = some .stackUnderflow := by decide

theorem witness_BadFetchAddressFaults :
    base.fault = none ∧ (0xFFFF : Word).toNat % 2 = 1 ∧ (0x1000 : Word).toNat % 2 = 0 ∧ (0x1000 : Word).toNat > 4094 := by
  decide

/-- RET on an empty stack at the entry point. -/
def retEmpty : State := base.withFetchWord 16 0x00EE

theorem witness_StepRaisesExactlyTheListedFaults : retEmpty.fault = none ∧ stepFault retEmpty = some .stackUnderflow ∧
    stepFault base = none ∧ stepFault { base with pc := 0x0FFF } = some .misalignedFetch ∧
    stepFault { base with pc := 0x1000 } = some .fetchOutOfBounds ∧
    stepFault ({ base with sp := 16 }.withFetchWord 16 0x2300) = some .stackOverflow ∧
    stepFault ({ base with idx := 4081 }.withFetchWord 16 0xFF55) = some .dataOutOfBounds ∧
    stepFault ((base.setReg 5 16).withFetchWord 16 0xE59E) = some .keyIndexOutOfRange := by decide

theorem witness_FaultEntryChangesOnlyFault : retEmpty.fault = none ∧ step retEmpty = .next (stepState retEmpty) ∧
    (stepState retEmpty).fault = some .stackUnderflow := ⟨by decide, rfl, by decide⟩

theorem witness_InstructionFaultsExactlyAndThenOnlyRecordsIt :
    base.fault = none ∧ instrFault .ret base = some .stackUnderflow ∧ instrFault .cls base = none := by decide

theorem witness_OnlyInitLeavesTheFaultState :
    halted.fault = some .stackUnderflow ∧ HostOp.init ∉ [HostOp.step, HostOp.load [0x60], HostOp.tickTimers] := by decide

theorem witness_StepEventTellsTheOutcome : step base = .next (stepState base) := rfl

theorem witness_StepKeepsInvariant : atTop.Inv ∧ step atTop = .next (stepState atTop) :=
  ⟨⟨by decide, by decide, by decide, by decide⟩, rfl⟩

theorem witness_EveryHostOperationKeepsInvariant : atTop.Inv := witness_StepKeepsInvariant.1

theorem witness_EveryReachableStateMeetsInvariant : Reachable (runOps [.load [0x22, 0x00], .step, .tickTimers] base) :=
  ⟨_, _, _, rfl⟩

/-- A wait that waits for a press, on its word F10A. -/
def waiting : State := { base.withFetchWord 16 0xF10A with latch := .waitingForPress }

theorem witness_PendingWaitStaysOnItsWord : waiting.WaitStands ∧ waiting.latch ≠ .idle ∧
    step waiting = .next (stepState waiting) ∧ (∀ bytes, HostOp.writeKeys (key 15) ≠ .load bytes) :=
  ⟨fun _ => ⟨1, by decide⟩, by decide, rfl, by simp⟩

theorem witness_InstructionsWriteOnlyTheirState :
    exec (.ldMiVx 15) revised = .next { revised.store 0 (regsUpTo revised 15) with pc := 0x202 } ∧
    ¬ WritesReg (.ldVxMi 14) 15 ∧ WritesReg (.ldVxMi 14) 14 := ⟨rfl, by simp [WritesReg], by simp [WritesReg]⟩

theorem witness_SoundTimerIsReadByNoStep : step atTop = .next (stepState atTop) := rfl

theorem witness_CallPushesReturnAddress :
    ({ base with sp := 15 } : State).sp.val < 16 ∧ ({ base with sp := 16 } : State).sp.val = 16 := by decide

theorem witness_ReturnPopsProgramCounter : ({ base with sp := 1 } : State).sp.val = (0 : Fin 16).val + 1 ∧
    ({ base with sp := 16 } : State).sp.val = (15 : Fin 16).val + 1 ∧ base.sp.val = 0 := by decide

theorem witness_ReturnUndoesCall : ({ base with sp := 15 } : State).sp.val < 16 := by decide

/-- The destination and bit clauses of the ALU statements, and the mask clause of RandomMasksTheDraw. -/
theorem witness_alu_clauses : (14 : RegIdx) ≠ 15 ∧ 7 < 8 ∧ (0 : Byte) = 0 ∧ (15 : Nat) < 16 := by decide

theorem witness_PortsTouchOnlyTheirState : step base = .next (stepState base) := rfl

theorem witness_Shifts : IsShiftSource (withV base 0 0x81 0 0) 0 1 0x81 ∧ IsShiftSource (withV revised 0x40 0x81 0 0) 0 1 0x40 :=
  ⟨⟨by decide, by decide⟩, ⟨by decide, by decide⟩⟩

theorem witness_StoreBcdDigits : ({ base with idx := 4093 } : State).idx.toNat + 2 ≤ 4095 ∧
    ({ base with idx := 4094 } : State).idx.toNat + 2 > 4095 := by decide

theorem witness_RegisterDump_RegisterLoad : ({ base with idx := 4080 } : State).idx.toNat + (15 : RegIdx).val ≤ 4095 ∧
    ({ base with idx := 4081 } : State).idx.toNat + (15 : RegIdx).val > 4095 := by decide

/-- V0 to V2 hold 1 to 3, I the last address from which they fit. -/
def toDump : State := withV { base with idx := 4093 } 1 2 3 0

/-- The state right after their dump. -/
def dumped : State := { toDump.store 4093 [1, 2, 3] with idx := 4096, pc := 0x202 }

theorem witness_DumpThenLoadRestores : toDump.idx.toNat + (2 : RegIdx).val ≤ 4095 ∧
    exec (.ldMiVx 2) toDump = .next dumped ∧ ({ dumped with idx := 4093 } : State).idx = toDump.idx ∧
    dumped.quirks = toDump.quirks ∧ ({ dumped with idx := 4093 } : State).read 4095 = dumped.read 4095 :=
  ⟨by decide, rfl, rfl, rfl, rfl⟩

/-- V0 and V1 hold the word JP 0x300, I the address of the next instruction. -/
def selfModify : State := withV { base with idx := 0x202 } 0x13 0x00 0 0

theorem witness_StoreIsSeenByTheNextFetch : selfModify.pc.toNat ≤ 4092 ∧ selfModify.idx = selfModify.pc + 2 ∧
    1 ≤ (1 : RegIdx).val ∧ selfModify.idx.toNat + (1 : RegIdx).val ≤ 4095 ∧
    exec (.ldMiVx 1) selfModify =
      .next { selfModify.store 0x202 [0x13, 0x00] with idx := 0x204, pc := 0x202 } :=
  ⟨by decide, by decide, by decide, by decide, rfl⟩

theorem witness_ClearScreen : phase (base.withFetchWord 16 0x00E0) = .run .cls := by decide

theorem witness_DrawFlipsExactlyTheCoveredPixels :
    SpriteInRange 0 { base with idx := 0xFFFF } ∧ SpriteInRange 1 { base with idx := 4095 } ∧
    ¬ SpriteInRange 2 { base with idx := 4095 } ∧
    phase ((withData base [0x80]).withFetchWord 16 0xD011) = .run (.drw 0 1 1) :=
  ⟨by unfold SpriteInRange; decide, by unfold SpriteInRange; decide, by unfold SpriteInRange; decide, by decide⟩

/-- One set sprite bit, drawn at the last pixel. -/
def toDraw : State := withV (withData base [0x80]) 63 31 0 0

/-- The state right after the draw. -/
def drawn : State := { toDraw with fb := Framebuffer.toggle base.fb (63, 31), pc := 0x202 }

theorem witness_DrawTwiceRestores : SpriteInRange 1 toDraw ∧ exec (.drw 0 1 1) toDraw = .next drawn ∧
    drawn.idx = toDraw.idx ∧ drawn.quirks.wrap = toDraw.quirks.wrap ∧ KeepsMem toDraw drawn ∧
    drawn.reg 0 = toDraw.reg 0 ∧ drawn.reg 1 = toDraw.reg 1 ∧ Covers 0 1 1 toDraw (63, 31) :=
  ⟨by unfold SpriteInRange; decide, rfl, rfl, rfl, fun _ => rfl, rfl, rfl,
    ⟨0, 0, by decide, by decide, by decide, ⟨rfl, rfl⟩⟩⟩

/-- Under clip: two set bits at the last column, of which the second is dropped, and the state right after the draw. -/
def toClip : State := withV (withData revised [0xC0]) 63 31 0 0

theorem witness_DrawTwiceRestores_clip : SpriteInRange 1 toClip ∧
    exec (.drw 0 1 1) toClip = .next { toClip with fb := Framebuffer.toggle revised.fb (63, 31), pc := 0x202 } ∧
    Covers 0 1 1 toClip (63, 31) ∧ ¬ Covers 0 1 1 toClip (0, 31) := by
  refine ⟨by unfold SpriteInRange; decide, rfl, ⟨0, 0, by decide, by decide, by decide, ⟨rfl, rfl⟩⟩, ?_⟩
  rintro ⟨r, c, -, -, -, h⟩
  have h1 : (0 : Nat) = 63 + c := h.1
  omega

theorem witness_KeySkips : ((base.setReg 5 15).reg 5).toNat = (15 : Fin 16).val ∧ ((base.setReg 5 16).reg 5).toNat > 15 := by
  decide

theorem witness_KeyWaitTransitions : base.latch = .idle ∧
    (waiting.latch = .waitingForPress ∧ ∀ k : Fin 16, waiting.keys[k.val] = false) ∧
    ((key 15)[(15 : Fin 16).val] = true ∧ ∀ j : Fin 16, j < 15 → (key 15)[j.val] = false) ∧
    (({ waiting with latch := .waitingForRelease 15, keys := key 15 } : State).latch = .waitingForRelease 15) ∧
    (key 9)[(15 : Fin 16).val] = false := by decide

theorem witness_KeyWaitResolvesInThreeSteps :
    (base.withFetchWord 16 0xF30A).latch = .idle ∧ phase (base.withFetchWord 16 0xF30A) = .run (.ldVxK 3) ∧
    (key 7)[(7 : Fin 16).val] = true ∧ (∀ j : Fin 16, j < 7 → (key 7)[j.val] = false) ∧
    (key 9)[(7 : Fin 16).val] = false ∧ [HostOp.step, HostOp.tickTimers, HostOp.step].count .step ≤ 2 := by decide

end Sys2Proof.Tests
end

section
/-!
PROOFS. The state a core is constructed in (R340) against the state after `init` (R341): `init` answers a constructed state,
up to the model's own draw counter (log entry 2).
-/

namespace Sys2Proof.Machine

/-- The draw counter is all that `init` keeps beside the quirks and the glyph table, so where no byte has been drawn it
answers the construction with that machine's own two parameters. -/
theorem init_eq_construct_of_draws_eq_zero {s : State} (h : s.draws = 0) :
    init s = State.construct s.quirks s.glyphs := by
  unfold init
  rw [h, ← State.construct_draws s.quirks s.glyphs]

/-- Construction leaves nothing for the first `init` to change (R340). -/
theorem init_construct (q : Quirks) (g : GlyphTable) : init (State.construct q g) = State.construct q g := by
  have h := init_eq_construct_of_draws_eq_zero (State.construct_draws q g)
  rwa [State.construct_quirks, State.construct_glyphs] at h

/-- R6, R340: reset is the construction at the OPEN parameters (log entries 3 and 4). -/
theorem State.reset_eq_construct :
    State.reset = State.construct ⟨Config.shiftQuirk, Config.loadStoreQuirk, Config.wrapQuirk⟩ Config.glyphs := rfl

/-- Settles O3: construction draws no random byte, so `init` keeps it, and reset is one of the constructions. -/
theorem constructedStateIsInitState : Obligations.ConstructedStateIsInitState := by
  unfold Obligations.ConstructedStateIsInitState
  refine ⟨fun q g => ⟨init_construct q g, State.construct_quirks q g, State.construct_glyphs q g⟩,
    State.reset_eq_construct, ?pc, ?fault⟩
  case pc =>
    rw [State.reset_eq_construct, State.construct_pc]
    decide
  case fault => rw [State.reset_eq_construct, State.construct_fault]

end Sys2Proof.Machine
end

section
/-!
PROOFS. RET and CALL, one equation per case of the stack depth (R131, R133).
-/

namespace Sys2Proof.Machine

variable {s : State}

theorem State.sp_room_or_full (s : State) : s.sp.val < 16 ∨ s.sp.val = 16 :=
  Nat.lt_or_eq_of_le (Nat.le_of_lt_succ s.sp.isLt)

theorem execRet_empty (h : s.sp.val = 0) : execRet s = .next (takeFault .stackUnderflow s) := by
  simp only [execRet, State.pop_empty h]

/-- The entry a return reads keeps its value (R24). -/
theorem execRet_pop (h : 0 < s.sp.val) :
    execRet s = .next
      (({ s with sp := ⟨s.sp.val - 1, by omega⟩ } : State).setPc (s.stack[s.sp.val - 1]'(by omega))) := by
  simp only [execRet, State.pop_some h]

theorem execCall_full (nnn : Addr12) (h : s.sp.val = 16) : execCall nnn s = .next (takeFault .stackOverflow s) := by
  simp only [execCall, State.push_full _ h]

theorem execCall_room (nnn : Addr12) (h : s.sp.val < 16) :
    execCall nnn s = .next (({ s with
      stack := s.stack.set s.sp.val (s.pc + 2), sp := ⟨s.sp.val + 1, by omega⟩ } : State).setPc nnn.zext) := by
  simp only [execCall, State.push_room _ h]

end Sys2Proof.Machine
end

section
/-!
PROOFS. What an instruction writes (R35), as one record whose fields default to "unchanged": the case of an instruction
then names exactly the columns the instruction has, and every other column is closed by the default.
-/

namespace Sys2Proof.Machine

/-- The columns of R35 that `i` does not have are the same in `s` and `t`. -/
structure WritesOnly (i : Instr) (s t : State) : Prop where
  reg : ∀ r, ¬ WritesReg i r → t.reg r = s.reg r := by intros; rfl
  idx : (∀ n, i ≠ .ldI n) → (∀ x, i ≠ .addIVx x ∧ i ≠ .ldFVx x) →
    ((∀ x, i ≠ .ldMiVx x ∧ i ≠ .ldVxMi x) ∨ s.quirks.loadStore = .revised) → t.idx = s.idx := by intros; rfl
  stack : (∀ n, i ≠ .call n) → t.stack = s.stack := by intros; rfl
  sp : (∀ n, i ≠ .call n) → i ≠ .ret → t.sp = s.sp := by intros; rfl
  dt : (∀ x, i ≠ .ldDtVx x) → t.dt = s.dt := by intros; rfl
  st : (∀ x, i ≠ .ldStVx x) → t.st = s.st := by intros; rfl
  fb : i ≠ .cls → (∀ x y n, i ≠ .drw x y n) → t.fb = s.fb := by intros; rfl
  latch : (∀ x, i ≠ .ldVxK x) → t.latch = s.latch := by intros; rfl
  mem : (∀ x, i ≠ .ldBVx x ∧ i ≠ .ldMiVx x) → KeepsMem s t := by intros _ _; rfl
  keys : t.keys = s.keys := by rfl
  quirks : t.quirks = s.quirks := by rfl
  glyphs : t.glyphs = s.glyphs := by rfl
  draws : (∀ x kk, i ≠ .rnd x kk) → t.draws = s.draws := by intros; rfl

/-- An answer that is a next state in which only the columns of `i` have changed. -/
def AnswersWritingOnly (i : Instr) (s : State) (r : Result) : Prop := ∃ t, r = .next t ∧ WritesOnly i s t

variable {i : Instr} {s : State}

/-- A fault writes no column of any instruction (R301). -/
theorem answersWritingOnly_takeFault (k : FaultKind) : AnswersWritingOnly i s (.next (takeFault k s)) :=
  ⟨_, rfl, {}⟩

theorem answersWritingOnly_withRange {n : Nat} {k : State} (h : WritesOnly i s k) :
    AnswersWritingOnly i s (withRange n s k) := by
  obtain ⟨-, hk⟩ | ⟨-, hk⟩ := withRange_cases n s k <;> rw [hk]
  · exact ⟨k, rfl, h⟩
  · exact answersWritingOnly_takeFault _

theorem answersWritingOnly_skipOnKey (want : Bool) (x : RegIdx) : AnswersWritingOnly i s (skipOnKey want x s) := by
  obtain ⟨-, hk⟩ | ⟨_, hk⟩ := skipOnKey_cases want x s <;> rw [hk]
  · exact answersWritingOnly_takeFault _
  · exact ⟨_, rfl, {}⟩

/-- R131: a pop moves SP and leaves the entry where it is. -/
theorem answersWritingOnly_execRet : AnswersWritingOnly .ret s (execRet s) := by
  obtain h | h := Nat.eq_zero_or_pos s.sp.val
  · rw [execRet_empty h]
    exact answersWritingOnly_takeFault _
  · exact ⟨_, execRet_pop h, { sp := fun _ hne => absurd rfl hne }⟩

theorem answersWritingOnly_execCall (nnn : Addr12) : AnswersWritingOnly (.call nnn) s (execCall nnn s) := by
  obtain h | h := s.sp_room_or_full
  · exact ⟨_, execCall_room nnn h,
      { stack := fun hne => absurd rfl (hne nnn), sp := fun hne => absurd rfl (hne nnn) }⟩
  · rw [execCall_full nnn h]
    exact answersWritingOnly_takeFault _

/-- R274 to R276: the latch moves, and the register is written by the transition that resolves the wait. -/
theorem answersWritingOnly_execLdVxK (x : RegIdx) : AnswersWritingOnly (.ldVxK x) s (execLdVxK x s) := by
  obtain ⟨-, h⟩ | ⟨-, h⟩ | ⟨_, -, -, h⟩ | ⟨_, -, -, h⟩ := execLdVxK_cases x s <;> rw [h]
  · exact ⟨_, rfl, { latch := fun hne => absurd rfl (hne x) }⟩
  · cases leastPressed s.keys with
    | none => exact ⟨_, rfl, {}⟩
    | some k => exact ⟨_, rfl, { latch := fun hne => absurd rfl (hne x) }⟩
  · exact ⟨_, rfl, {}⟩
  · exact ⟨_, rfl, { reg := fun _ hr => State.reg_setReg_other _ _ hr, latch := fun hne => absurd rfl (hne x) }⟩

/-- Under the revised quirk a dump or load leaves I alone (R204, R205). -/
theorem idxAfter_revised (x : RegIdx) (h : s.quirks.loadStore = .revised) : idxAfter s x = s.idx := by
  simp only [idxAfter, h]

/-- A load of `V0` to `Vx` keeps the registers above `Vx` (R205). -/
theorem getElem_loadRegs_above (read : Nat → Byte) (a : Nat) (v : Vector Byte 16) {x r : RegIdx} (h : ¬ r ≤ x) :
    (loadRegs read a (x.val + 1) v)[r.val] = v[r.val] := by
  rw [getElem_loadRegs read a _ v r.val r.isLt, if_neg (fun hlt => h (Nat.le_of_lt_succ hlt))]

theorem State.reg_setResultAndFlag_other {x r : RegIdx} (result flag : Byte) (h : ¬ (r = x ∨ r = 15)) :
    (s.setResultAndFlag x result flag).reg r = s.reg r := by
  rw [State.reg_setResultAndFlag, if_neg (fun e => h (.inr e)), if_neg (fun e => h (.inl e))]

/-- R35, a case per row of its table. -/
theorem exec_answersWritingOnly (i : Instr) (s : State) : AnswersWritingOnly i s (exec i s) := by
  cases i with
  | cls => exact ⟨_, rfl, { fb := fun hne => absurd rfl hne }⟩
  | ret => exact answersWritingOnly_execRet
  | call nnn => exact answersWritingOnly_execCall nnn
  | jp | jpV0 | seImm | sneImm | seReg | sneReg => exact ⟨_, rfl, {}⟩
  | ldImm | addImm | ldReg | orReg | andReg | xorReg | ldVxDt =>
    exact ⟨_, rfl, { reg := fun _ hr => State.reg_setReg_other _ _ hr }⟩
  | addReg | sub | subn | shr | shl =>
    exact ⟨_, rfl, { reg := fun _ hr => State.reg_setResultAndFlag_other _ _ hr }⟩
  | rnd x kk =>
    exact ⟨_, rfl, { reg := fun _ hr => State.reg_setReg_other _ _ hr, draws := fun hne => absurd rfl (hne x kk) }⟩
  | ldI nnn => exact ⟨_, rfl, { idx := fun hne => absurd rfl (hne nnn) }⟩
  | addIVx x => exact ⟨_, rfl, { idx := fun _ hne => absurd rfl (hne x).1 }⟩
  | ldFVx x => exact ⟨_, rfl, { idx := fun _ hne => absurd rfl (hne x).2 }⟩
  | drw x y n =>
    exact answersWritingOnly_withRange
      { reg := fun _ hr => State.reg_setReg_other _ _ hr, fb := fun _ hne => absurd rfl (hne x y n) }
  | skp x => exact answersWritingOnly_skipOnKey true x
  | sknp x => exact answersWritingOnly_skipOnKey false x
  | ldVxK x => exact answersWritingOnly_execLdVxK x
  | ldDtVx x => exact ⟨_, rfl, { dt := fun hne => absurd rfl (hne x) }⟩
  | ldStVx x => exact ⟨_, rfl, { st := fun hne => absurd rfl (hne x) }⟩
  | ldBVx x => exact answersWritingOnly_withRange { mem := fun hne => absurd rfl (hne x).1 }
  | ldMiVx x =>
    exact answersWritingOnly_withRange
      { idx := fun _ _ hq => hq.elim (fun hne => absurd rfl (hne x).1) (idxAfter_revised x)
        mem := fun hne => absurd rfl (hne x).2 }
  | ldVxMi x =>
    exact answersWritingOnly_withRange
      { reg := fun _ hr => getElem_loadRegs_above _ _ _ hr
        idx := fun _ _ hq => hq.elim (fun hne => absurd rfl (hne x).2) (idxAfter_revised x) }

theorem exec_writesOnly {t : State} (h : exec i s = .next t) : WritesOnly i s t := by
  obtain ⟨t', ht', hw⟩ := exec_answersWritingOnly i s
  obtain rfl : t' = t := Host.Outcome.next.inj (ht'.symm.trans h)
  exact hw

/-- Settles O28: the columns of `exec_writesOnly`, one by one. -/
theorem instructionsWriteOnlyTheirState : Obligations.InstructionsWriteOnlyTheirState := by
  unfold Obligations.InstructionsWriteOnlyTheirState
  intro i s t h
  have w := exec_writesOnly h
  exact ⟨w.reg, w.idx, w.stack, w.sp, w.dt, w.st, w.fb, w.latch, w.mem, w.keys, w.quirks, w.glyphs, w.draws⟩

end Sys2Proof.Machine
end

section
/-!
PROOFS. No step reads the sound timer (R27): two runs that start from states differing in ST only.
-/

namespace Sys2Proof.Machine

/-- The state with `b` in ST (R27). -/
def State.withSt (s : State) (b : Byte) : State := { s with st := b }

/-- Both answers are next states, and these differ in ST at most. -/
def SameButSt (r r' : Result) : Prop := ∃ t c, r = .next t ∧ r' = .next (t.withSt c)

variable (s : State) (b : Byte)

@[simp] theorem State.reg_withSt (x : RegIdx) : (s.withSt b).reg x = s.reg x := rfl
@[simp] theorem State.withSt_idx : (s.withSt b).idx = s.idx := rfl
@[simp] theorem State.withSt_pc : (s.withSt b).pc = s.pc := rfl
@[simp] theorem State.withSt_keys : (s.withSt b).keys = s.keys := rfl
@[simp] theorem State.withSt_latch : (s.withSt b).latch = s.latch := rfl

theorem withRange_sameButSt (n : Nat) (k : State) (c : Byte) :
    SameButSt (withRange n s k) (withRange n (s.withSt b) (k.withSt c)) := by
  unfold withRange
  rw [State.withSt_idx]
  cases inRange s.idx.toNat n
  · exact ⟨takeFault .dataOutOfBounds s, b, rfl, rfl⟩
  · exact ⟨k, c, rfl, rfl⟩

theorem skipOnKey_sameButSt (want : Bool) (x : RegIdx) :
    SameButSt (skipOnKey want x s) (skipOnKey want x (s.withSt b)) := by
  unfold skipOnKey
  rw [State.reg_withSt]
  cases keyIndex (s.reg x) <;> exact ⟨_, b, rfl, rfl⟩

theorem execRet_sameButSt : SameButSt (execRet s) (execRet (s.withSt b)) := by
  obtain h | h := Nat.eq_zero_or_pos s.sp.val
  · exact ⟨_, b, execRet_empty h, execRet_empty (s := s.withSt b) h⟩
  · exact ⟨_, b, execRet_pop h, execRet_pop (s := s.withSt b) h⟩

theorem execCall_sameButSt (nnn : Addr12) : SameButSt (execCall nnn s) (execCall nnn (s.withSt b)) := by
  obtain h | h := s.sp_room_or_full
  · exact ⟨_, b, execCall_room nnn h, execCall_room (s := s.withSt b) nnn h⟩
  · exact ⟨_, b, execCall_full nnn h, execCall_full (s := s.withSt b) nnn h⟩

theorem execLdVxK_sameButSt (x : RegIdx) : SameButSt (execLdVxK x s) (execLdVxK x (s.withSt b)) := by
  unfold execLdVxK
  rw [State.withSt_latch, State.withSt_keys]
  cases s.latch with
  | idle => exact ⟨_, b, rfl, rfl⟩
  | waitingForPress => cases leastPressed s.keys <;> exact ⟨_, b, rfl, rfl⟩
  | waitingForRelease k =>
    dsimp only
    cases s.keys[k.val] <;> exact ⟨_, b, rfl, rfl⟩

/-- LD ST, Vx overwrites the difference, every other instruction carries it along. -/
theorem exec_sameButSt (i : Instr) : SameButSt (exec i s) (exec i (s.withSt b)) := by
  cases i with
  | ldStVx x => exact ⟨_, s.reg x, rfl, rfl⟩
  | ret => exact execRet_sameButSt s b
  | call nnn => exact execCall_sameButSt s b nnn
  | skp x => exact skipOnKey_sameButSt s b true x
  | sknp x => exact skipOnKey_sameButSt s b false x
  | ldVxK x => exact execLdVxK_sameButSt s b x
  | drw | ldBVx | ldMiVx | ldVxMi => exact withRange_sameButSt s b _ _ b
  | cls | jp | jpV0 | seImm | sneImm | seReg | sneReg | ldImm | addImm | ldReg | orReg | andReg | xorReg | addReg
  | sub | subn | shr | shl | rnd | ldI | addIVx | ldFVx | ldVxDt | ldDtVx => exact ⟨_, b, rfl, rfl⟩

/-- The fetch looks at the fault status, the pc and memory (R110 to R115). -/
theorem phase_withSt : phase (s.withSt b) = phase s := rfl

theorem step_sameButSt : SameButSt (step s) (step (s.withSt b)) := by
  unfold step
  rw [phase_withSt]
  cases phase s with
  | halted k => exact ⟨s, b, rfl, rfl⟩
  | fetchFault k => exact ⟨takeFault k s, b, rfl, rfl⟩
  | unknown w => exact ⟨s.next2, b, rfl, rfl⟩
  | run i => exact exec_sameButSt s b i

theorem instrOutput_withSt (i : Instr) (t : State) (c : Byte) : instrOutput i (t.withSt c) = instrOutput i t := rfl

theorem stepOutput_withSt : stepOutput (s.withSt b) = stepOutput s := by
  unfold stepOutput
  rw [phase_withSt, State.withSt_pc]
  cases phase s with
  | halted | fetchFault | unknown => rfl
  | run i =>
    obtain ⟨t, c, h, h'⟩ := exec_sameButSt s b i
    simp only [h, h', instrOutput_withSt]

/-- Settles O29: the two answers differ in ST at most, so giving the one the other's ST makes them equal. -/
theorem soundTimerIsReadByNoStep : Obligations.SoundTimerIsReadByNoStep := by
  unfold Obligations.SoundTimerIsReadByNoStep
  intro s t b hstep
  obtain ⟨t', c, h, h'⟩ := step_sameButSt s b
  obtain rfl : t' = t := Host.Outcome.next.inj (h.symm.trans hstep)
  exact ⟨t'.withSt c, h', rfl, stepOutput_withSt s b⟩

end Sys2Proof.Machine
end

section
/-!
PROOFS. LD [I], Vx where its bytes exist (R204): the state after the dump, what memory reads there, and the word that is
fetched next when the dump went over it (R65).
-/

namespace Sys2Proof.Machine

/-- The state after a dump of `V0` to `Vx` that does not fault (R204). -/
def State.dumpRegs (s : State) (x : RegIdx) : State :=
  { s.store s.idx.toNat (regsUpTo s x) with idx := idxAfter s x, pc := s.pc + 2 }

variable {s : State} {x : RegIdx}

@[simp] theorem State.dumpRegs_pc : (s.dumpRegs x).pc = s.pc + 2 := rfl

theorem State.read_dumpRegs (a : Nat) :
    (s.dumpRegs x).read a = (s.store s.idx.toNat (regsUpTo s x)).read a := rfl

theorem execLdMiVx_inRange (h : s.idx.toNat + x.val ≤ 4095) : execLdMiVx x s = .next (s.dumpRegs x) :=
  withRange_ok _ ((inRange_iff _ _).mpr (.inr (by omega)))

/-- Each dumped register reads back at its place from I upward. -/
theorem State.read_dumpRegs_reg (h : s.idx.toNat + x.val ≤ 4095) {r : RegIdx} (hr : r ≤ x) :
    (s.dumpRegs x).read (s.idx.toNat + r.val) = s.reg r := by
  have hlen : s.idx.toNat + (regsUpTo s x).length ≤ 4096 := by rw [length_regsUpTo]; omega
  have hin : s.idx.toNat ≤ s.idx.toNat + r.val ∧ s.idx.toNat + r.val - s.idx.toNat < (regsUpTo s x).length := by
    rw [length_regsUpTo, Nat.add_sub_cancel_left]
    exact ⟨Nat.le_add_right _ _, Nat.lt_succ_of_le hr⟩
  rw [State.read_dumpRegs, State.read_store _ _ _ _ hlen, dif_pos hin, getElem_regsUpTo]
  simp only [Nat.add_sub_cancel_left, State.reg]

/-- R65: with I at the next instruction and at least `V0` and `V1` dumped, the fetch after the dump
reads these two, `V0` as the high byte (R52). -/
theorem fetchedWord_dumpRegs (hidx : s.idx = s.pc + 2) (hx : 1 ≤ x.val) (h : s.idx.toNat + x.val ≤ 4095) :
    fetchedWord (s.dumpRegs x) = (s.reg 0).toNat * 256 + (s.reg 1).toNat := by
  have hhi : (s.dumpRegs x).read s.idx.toNat = s.reg 0 := State.read_dumpRegs_reg h (Fin.zero_le x)
  have hlo : (s.dumpRegs x).read (s.idx.toNat + 1) = s.reg 1 := State.read_dumpRegs_reg (r := 1) h hx
  rw [fetchedWord, State.dumpRegs_pc, ← hidx, hhi, hlo]

/-- Settles O48: the dump is in range, so it answers `dumpRegs`, and the fetch reads the cells the dump wrote. -/
theorem storeIsSeenByTheNextFetch : Obligations.StoreIsSeenByTheNextFetch := by
  unfold Obligations.StoreIsSeenByTheNextFetch
  intro x s t hpc hidx hx h hexec
  obtain rfl : s.dumpRegs x = t := Host.Outcome.next.inj ((execLdMiVx_inRange h).symm.trans hexec)
  refine ⟨?pcAdvances, fetchedWord_dumpRegs hidx hx h⟩
  rw [State.dumpRegs_pc]
  bv_omega

end Sys2Proof.Machine
end

section
/-!
PROOFS. The encoding (R80 to R93). An instruction's row fixes the bits that select it, and its operands are fields of the
word: a matched word decodes to the row's instruction with the word's fields, and nothing else decodes.
-/

namespace Sys2Proof

/-! ### The fields of a format (R80, R81) -/

section Fields

variable (op : Nat) (nnn : Addr12) (x y : RegIdx) (kk : Byte) (n : Fin 16)

@[simp] theorem fieldNNN_formatA : fieldNNN (formatA op nnn) = nnn := by
  apply BitVec.eq_of_toNat_eq
  have := nnn.isLt
  rw [fieldNNN_toNat, formatA, BitVec.toNat_ofNat]
  omega

@[simp] theorem fieldX_formatXK : fieldX (formatXK op x kk) = x := by
  apply Fin.ext
  have := kk.isLt
  simp only [fieldX, formatXK, BitVec.toNat_ofNat]
  omega

@[simp] theorem fieldKK_formatXK : fieldKK (formatXK op x kk) = kk := by
  apply BitVec.eq_of_toNat_eq
  have := kk.isLt
  rw [fieldKK_toNat, formatXK, BitVec.toNat_ofNat]
  omega

@[simp] theorem fieldX_formatXY : fieldX (formatXY op x y n) = x := by
  apply Fin.ext
  simp only [fieldX, formatXY, BitVec.toNat_ofNat]
  omega

@[simp] theorem fieldY_formatXY : fieldY (formatXY op x y n) = y := by
  apply Fin.ext
  simp only [fieldY, formatXY, BitVec.toNat_ofNat]
  omega

@[simp] theorem fieldN_formatXY : fieldN (formatXY op x y n) = n := by
  apply Fin.ext
  simp only [fieldN, formatXY, BitVec.toNat_ofNat]
  omega

end Fields

theorem fieldOp_lt (w : Word) : fieldOp w < 16 := by
  have := w.isLt
  unfold fieldOp
  omega

/-! ### A format filled with the fields of a word -/

section Formats

variable {w : Word} {op : Nat}

theorem formatA_of_fields (hop : fieldOp w = op) : formatA op (fieldNNN w) = w := by
  subst hop
  apply BitVec.eq_of_toNat_eq
  rw [toNat_formatA (fieldOp_lt w), fieldNNN_toNat, fieldOp]
  omega

theorem formatXK_of_fields {kk : Byte} (hop : fieldOp w = op) (hkk : w.toNat % 256 = kk.toNat) :
    formatXK op (fieldX w) kk = w := by
  subst hop
  apply BitVec.eq_of_toNat_eq
  rw [toNat_formatXK (fieldOp_lt w), ← hkk]
  simp only [fieldOp, fieldX]
  omega

theorem toNat_formatXY_of_fields (hop : fieldOp w = op) (n : Fin 16) :
    (formatXY op (fieldX w) (fieldY w) n).toNat = w.toNat - w.toNat % 16 + n.val := by
  subst hop
  rw [toNat_formatXY (fieldOp_lt w)]
  simp only [fieldOp, fieldX, fieldY]
  omega

theorem formatXY_of_fields {n : Fin 16} (hop : fieldOp w = op) (hn : w.toNat % 16 = n.val) :
    formatXY op (fieldX w) (fieldY w) n = w := by
  apply BitVec.eq_of_toNat_eq
  rw [toNat_formatXY_of_fields hop, ← hn]
  omega

end Formats

/-! ### A row's match as equations on the fields (R83 to R89), a lemma per mask -/

section Masks

variable {mnemonic : String} {v w : Word}

theorem matchesWord_whole : (⟨mnemonic, v, 0xFFFF⟩ : OpcodeRow).matchesWord w = true ↔ w = v := by
  rw [OpcodeRow.matchesWord, beq_iff_eq]
  exact Eq.congr_left (BitVec.and_allOnes (x := w))

theorem matchesWord_op (hv : v &&& 0xF000 = v) :
    (⟨mnemonic, v, 0xF000⟩ : OpcodeRow).matchesWord w = true ↔ fieldOp w = fieldOp v := by
  rw [OpcodeRow.matchesWord, beq_iff_eq, ← BitVec.toNat_inj, ← hv, and_F000, and_F000, hv, fieldOp, fieldOp]
  omega

theorem matchesWord_op_lowNibble (hv : v &&& 0xF00F = v) :
    (⟨mnemonic, v, 0xF00F⟩ : OpcodeRow).matchesWord w = true ↔
      fieldOp w = fieldOp v ∧ w.toNat % 16 = v.toNat % 16 := by
  rw [OpcodeRow.matchesWord, beq_iff_eq, ← BitVec.toNat_inj, ← hv, and_F00F, and_F00F, hv, fieldOp, fieldOp]
  omega

theorem matchesWord_op_lowByte (hv : v &&& 0xF0FF = v) :
    (⟨mnemonic, v, 0xF0FF⟩ : OpcodeRow).matchesWord w = true ↔
      fieldOp w = fieldOp v ∧ w.toNat % 256 = v.toNat % 256 := by
  rw [OpcodeRow.matchesWord, beq_iff_eq, ← BitVec.toNat_inj, ← hv, and_F0FF, and_F0FF, hv, fieldOp, fieldOp]
  omega

end Masks

/-! ### The instruction of a row with the operands of a word -/

/-- The instruction with each operand replaced by the word's field of that name (R82). -/
def Instr.withFieldsOf (w : Word) : Instr → Instr
  | .cls => .cls
  | .ret => .ret
  | .jp _ => .jp (fieldNNN w)
  | .call _ => .call (fieldNNN w)
  | .seImm _ _ => .seImm (fieldX w) (fieldKK w)
  | .sneImm _ _ => .sneImm (fieldX w) (fieldKK w)
  | .seReg _ _ => .seReg (fieldX w) (fieldY w)
  | .ldImm _ _ => .ldImm (fieldX w) (fieldKK w)
  | .addImm _ _ => .addImm (fieldX w) (fieldKK w)
  | .ldReg _ _ => .ldReg (fieldX w) (fieldY w)
  | .orReg _ _ => .orReg (fieldX w) (fieldY w)
  | .andReg _ _ => .andReg (fieldX w) (fieldY w)
  | .xorReg _ _ => .xorReg (fieldX w) (fieldY w)
  | .addReg _ _ => .addReg (fieldX w) (fieldY w)
  | .sub _ _ => .sub (fieldX w) (fieldY w)
  | .shr _ _ => .shr (fieldX w) (fieldY w)
  | .subn _ _ => .subn (fieldX w) (fieldY w)
  | .shl _ _ => .shl (fieldX w) (fieldY w)
  | .sneReg _ _ => .sneReg (fieldX w) (fieldY w)
  | .ldI _ => .ldI (fieldNNN w)
  | .jpV0 _ => .jpV0 (fieldNNN w)
  | .rnd _ _ => .rnd (fieldX w) (fieldKK w)
  | .drw _ _ _ => .drw (fieldX w) (fieldY w) (fieldN w)
  | .skp _ => .skp (fieldX w)
  | .sknp _ => .sknp (fieldX w)
  | .ldVxDt _ => .ldVxDt (fieldX w)
  | .ldVxK _ => .ldVxK (fieldX w)
  | .ldDtVx _ => .ldDtVx (fieldX w)
  | .ldStVx _ => .ldStVx (fieldX w)
  | .addIVx _ => .addIVx (fieldX w)
  | .ldFVx _ => .ldFVx (fieldX w)
  | .ldBVx _ => .ldBVx (fieldX w)
  | .ldMiVx _ => .ldMiVx (fieldX w)
  | .ldVxMi _ => .ldVxMi (fieldX w)

/-- Operands are no part of the row. -/
@[simp] theorem Instr.row_withFieldsOf (i : Instr) (w : Word) : (i.withFieldsOf w).row = i.row := by
  cases i <;> rfl

/-- The encoder puts every operand into the field the operand is read from (R81, R82). -/
theorem Instr.withFieldsOf_encode (i : Instr) : i.withFieldsOf (encode i) = i := by
  cases i <;> simp [Instr.withFieldsOf, encode]

variable {i : Instr} {w : Word}

/-- A matched word decodes to the instruction of the row that matches it, its operands read from the word. -/
theorem decodeWord_of_matchesWord (h : i.row.matchesWord w = true) : decodeWord w = .ok (i.withFieldsOf w) := by
  cases i with
  | cls | ret =>
    obtain rfl := matchesWord_whole.mp h
    rfl
  | jp | call | seImm | sneImm | seReg | ldImm | addImm | sneReg | ldI | jpV0 | rnd | drw =>
    have hop := (matchesWord_op (by decide)).mp h
    unfold decodeWord
    rw [hop]
    rfl
  | ldReg | orReg | andReg | xorReg | addReg | sub | shr | subn | shl =>
    obtain ⟨hop, hn⟩ := (matchesWord_op_lowNibble (by decide)).mp h
    unfold decodeWord decodeFamily8
    rw [hop, hn]
    rfl
  | skp | sknp =>
    obtain ⟨hop, hkk⟩ := (matchesWord_op_lowByte (by decide)).mp h
    unfold decodeWord decodeFamilyE
    rw [hop, hkk]
    rfl
  | ldVxDt | ldVxK | ldDtVx | ldStVx | addIVx | ldFVx | ldBVx | ldMiVx | ldVxMi =>
    obtain ⟨hop, hkk⟩ := (matchesWord_op_lowByte (by decide)).mp h
    unfold decodeWord decodeFamilyF
    rw [hop, hkk]
    rfl

/-- Encoding what a matched word decodes to spells the word again, but for the low nibble of families 5 and 9, which is
no operand and is spelled 0 (R86). -/
theorem encode_withFieldsOf_cases (h : i.row.matchesWord w = true) :
    ((fieldOp w ≠ 5 ∧ fieldOp w ≠ 9) ∧ encode (i.withFieldsOf w) = w) ∨
      ((fieldOp w = 5 ∨ fieldOp w = 9) ∧ (encode (i.withFieldsOf w)).toNat = w.toNat - w.toNat % 16) := by
  cases i with
  | cls | ret =>
    obtain rfl := matchesWord_whole.mp h
    exact .inl ⟨by decide, rfl⟩
  | jp | call | ldI | jpV0 =>
    have hop := (matchesWord_op (by decide)).mp h
    exact .inl ⟨by rw [hop]; decide, formatA_of_fields hop⟩
  | seImm | sneImm | ldImm | addImm | rnd =>
    have hop := (matchesWord_op (by decide)).mp h
    exact .inl ⟨by rw [hop]; decide, formatXK_of_fields hop (fieldKK_toNat w).symm⟩
  | drw =>
    have hop := (matchesWord_op (by decide)).mp h
    exact .inl ⟨by rw [hop]; decide, formatXY_of_fields hop rfl⟩
  | seReg | sneReg =>
    have hop := (matchesWord_op (by decide)).mp h
    exact .inr ⟨by rw [hop]; decide, toNat_formatXY_of_fields hop 0⟩
  | ldReg | orReg | andReg | xorReg | addReg | sub | shr | subn | shl =>
    obtain ⟨hop, hn⟩ := (matchesWord_op_lowNibble (by decide)).mp h
    exact .inl ⟨by rw [hop]; decide, formatXY_of_fields hop hn⟩
  | skp | sknp | ldVxDt | ldVxK | ldDtVx | ldStVx | addIVx | ldFVx | ldBVx | ldMiVx | ldVxMi =>
    obtain ⟨hop, hkk⟩ := (matchesWord_op_lowByte (by decide)).mp h
    exact .inl ⟨by rw [hop]; decide, formatXK_of_fields hop hkk⟩

/-! ### What the decoder can answer -/

/-- The two answers the opcode table allows for a word: an instruction whose row matches it, or, for a word of R90's list,
that it is unknown. -/
inductive DecodesByTable (w : Word) : Except DecodeError Instr → Prop
  | assigned {i : Instr} (h : i.row.matchesWord w = true) : DecodesByTable w (.ok i)
  | unassigned (h : Machine.Unassigned w.toNat) : DecodesByTable w (.error (.unknown w))

theorem DecodesByTable.unknown_iff {r : Except DecodeError Instr} (h : DecodesByTable w r) :
    r = .error (.unknown w) ↔ ¬ ∃ i, r = .ok i := by
  cases h with
  | assigned => exact ⟨nofun, fun hne => absurd ⟨_, rfl⟩ hne⟩
  | unassigned => exact ⟨fun _ => nofun, fun _ => rfl⟩

theorem decodesByTable_family0 (hop : fieldOp w = 0x0) : DecodesByTable w (decodeFamily0 w) := by
  unfold decodeFamily0
  split
  case isTrue hw => exact .assigned (matchesWord_whole.mpr (BitVec.eq_of_toNat_eq hw))
  case isFalse h0 =>
    split
    case isTrue hw => exact .assigned (matchesWord_whole.mpr (BitVec.eq_of_toNat_eq hw))
    case isFalse hE => exact .unassigned (.inl ⟨hop, h0, hE⟩)

theorem decodesByTable_family8 (hop : fieldOp w = 0x8) : DecodesByTable w (decodeFamily8 w) := by
  unfold decodeFamily8
  split
  case h_10 =>
    refine .unassigned (.inr (.inl ⟨hop, ?_⟩))
    simp only [imp_false, List.mem_cons, List.not_mem_nil, or_false] at *
    omega
  all_goals exact .assigned ((matchesWord_op_lowNibble (by decide)).mpr ⟨hop, ‹_›⟩)

theorem decodesByTable_familyE (hop : fieldOp w = 0xE) : DecodesByTable w (decodeFamilyE w) := by
  unfold decodeFamilyE
  split
  case h_3 =>
    refine .unassigned (.inr (.inr (.inl ⟨hop, ?_⟩)))
    simp only [imp_false, List.mem_cons, List.not_mem_nil, or_false] at *
    omega
  all_goals exact .assigned ((matchesWord_op_lowByte (by decide)).mpr ⟨hop, ‹_›⟩)

theorem decodesByTable_familyF (hop : fieldOp w = 0xF) : DecodesByTable w (decodeFamilyF w) := by
  unfold decodeFamilyF
  split
  case h_10 =>
    refine .unassigned (.inr (.inr (.inr ⟨hop, ?_⟩)))
    simp only [imp_false, List.mem_cons, List.not_mem_nil, or_false] at *
    omega
  all_goals exact .assigned ((matchesWord_op_lowByte (by decide)).mpr ⟨hop, ‹_›⟩)

theorem decodesByTable_decodeWord (w : Word) : DecodesByTable w (decodeWord w) := by
  have hlt := fieldOp_lt w
  unfold decodeWord
  split
  case h_1 hop => exact decodesByTable_family0 hop
  case h_9 hop => exact decodesByTable_family8 hop
  case h_15 hop => exact decodesByTable_familyE hop
  case h_16 hop => exact decodesByTable_familyF hop
  case h_17 =>
    simp only [imp_false] at *
    omega
  all_goals exact .assigned ((matchesWord_op (by decide)).mpr ‹_›)

theorem matchesWord_of_decodeWord (h : decodeWord w = .ok i) : i.row.matchesWord w = true := by
  have hd := decodesByTable_decodeWord w
  rw [h] at hd
  cases hd
  assumption

/-- The decoder said by the table: the row selects the instruction and the word's fields are its operands (R82, R84). -/
theorem decodeWord_ok_iff : decodeWord w = .ok i ↔ i.row.matchesWord w = true ∧ i.withFieldsOf w = i := by
  constructor
  · intro h
    have hm := matchesWord_of_decodeWord h
    exact ⟨hm, Except.ok.inj ((decodeWord_of_matchesWord hm).symm.trans h)⟩
  · rintro ⟨hm, hi⟩
    rw [decodeWord_of_matchesWord hm, hi]

/-- No row has a word of R90's list. -/
theorem decodeWord_of_unassigned (h : Machine.Unassigned w.toNat) : decodeWord w = .error (.unknown w) := by
  unfold decodeWord fieldOp
  obtain ⟨hop, h0, hE⟩ | ⟨hop, hn⟩ | ⟨hop, hkk⟩ | ⟨hop, hkk⟩ := h <;> rw [hop]
  · change decodeFamily0 w = _
    rw [decodeFamily0, if_neg h0, if_neg hE]
  · change decodeFamily8 w = _
    unfold decodeFamily8
    split
    case h_10 => rfl
    all_goals simp [*] at hn
  · change decodeFamilyE w = _
    unfold decodeFamilyE
    split
    case h_3 => rfl
    all_goals simp [*] at hkk
  · change decodeFamilyF w = _
    unfold decodeFamilyF
    split
    case h_10 => rfl
    all_goals simp [*] at hkk

theorem unassigned_iff_decodeWord : Machine.Unassigned w.toNat ↔ decodeWord w = .error (.unknown w) := by
  refine ⟨decodeWord_of_unassigned, fun h => ?_⟩
  have hd := decodesByTable_decodeWord w
  rw [h] at hd
  cases hd
  assumption

/-! ### The opcode table -/

/-- Every instruction's word is matched by its row, and its row stands in the table, one instruction at a time. -/
theorem rowMatch (i : Instr) : Laws.RowMatch.Statement i := by
  cases i
  exacts [Laws.RowMatch.cls, Laws.RowMatch.ret, Laws.RowMatch.jp _, Laws.RowMatch.call _, Laws.RowMatch.seImm _ _,
    Laws.RowMatch.sneImm _ _, Laws.RowMatch.seReg _ _, Laws.RowMatch.ldImm _ _, Laws.RowMatch.addImm _ _,
    Laws.RowMatch.ldReg _ _, Laws.RowMatch.orReg _ _, Laws.RowMatch.andReg _ _, Laws.RowMatch.xorReg _ _,
    Laws.RowMatch.addReg _ _, Laws.RowMatch.sub _ _, Laws.RowMatch.shr _ _, Laws.RowMatch.subn _ _,
    Laws.RowMatch.shl _ _, Laws.RowMatch.sneReg _ _, Laws.RowMatch.ldI _, Laws.RowMatch.jpV0 _, Laws.RowMatch.rnd _ _,
    Laws.RowMatch.drw _ _ _, Laws.RowMatch.skp _, Laws.RowMatch.sknp _, Laws.RowMatch.ldVxDt _, Laws.RowMatch.ldVxK _,
    Laws.RowMatch.ldDtVx _, Laws.RowMatch.ldStVx _, Laws.RowMatch.addIVx _, Laws.RowMatch.ldFVx _,
    Laws.RowMatch.ldBVx _, Laws.RowMatch.ldMiVx _, Laws.RowMatch.ldVxMi _]

/-- The table has no row beside those of the instructions. -/
theorem exists_row_of_mem : ∀ r ∈ opcodeTable, ∃ i : Instr, i.row = r := by
  simp only [opcodeTable, plainRows, family8Rows, familyEFRows, List.forall_mem_append, List.forall_mem_cons,
    List.not_mem_nil, false_implies, implies_true, and_true]
  and_intros <;> exact ⟨_, rfl⟩

theorem wellFormed_iff : Word.wellFormed w = true ↔ ∃ i : Instr, i.row.matchesWord w = true := by
  rw [Word.wellFormed, List.any_eq_true]
  constructor
  · rintro ⟨r, hr, hm⟩
    obtain ⟨i, rfl⟩ := exists_row_of_mem _ hr
    exact ⟨i, hm⟩
  · rintro ⟨i, hm⟩
    exact ⟨i.row, (rowMatch i).2, hm⟩

theorem exists_decodeWord_iff_wellFormed : (∃ i, decodeWord w = .ok i) ↔ Word.wellFormed w = true := by
  rw [wellFormed_iff]
  exact ⟨fun ⟨i, h⟩ => ⟨i, matchesWord_of_decodeWord h⟩, fun ⟨_, h⟩ => ⟨_, decodeWord_of_matchesWord h⟩⟩

/-- Two rows that match one word are the row of what the word decodes to. -/
theorem row_eq_of_matchesWord {a b : OpcodeRow} (ha : a ∈ opcodeTable) (hb : b ∈ opcodeTable)
    (hma : a.matchesWord w = true) (hmb : b.matchesWord w = true) : a = b := by
  obtain ⟨i, rfl⟩ := exists_row_of_mem _ ha
  obtain ⟨j, rfl⟩ := exists_row_of_mem _ hb
  have hij : i.withFieldsOf w = j.withFieldsOf w :=
    Except.ok.inj ((decodeWord_of_matchesWord hma).symm.trans (decodeWord_of_matchesWord hmb))
  rw [← i.row_withFieldsOf w, hij, j.row_withFieldsOf]

/-! ### The obligations -/

/-- Settles O8: an instruction's word is matched by the instruction's row, so it decodes to that row's instruction, with
the operands its format placed in the word. -/
theorem decodeOfEncodeIsIdentity : Obligations.DecodeOfEncodeIsIdentity := by
  unfold Obligations.DecodeOfEncodeIsIdentity
  intro i
  exact decodeWord_ok_iff.mpr ⟨(rowMatch i).1, i.withFieldsOf_encode⟩

/-- Settles O9: what a word decodes to has the word's fields as operands, and the formats put them back. -/
theorem encodeOfDecodeIsTheWord : Obligations.EncodeOfDecodeIsTheWord := by
  unfold Obligations.EncodeOfDecodeIsTheWord
  intro w i h
  obtain ⟨hm, hi⟩ := decodeWord_ok_iff.mp h
  have hcases := encode_withFieldsOf_cases hm
  rw [hi] at hcases
  unfold fieldOp at hcases
  obtain ⟨hne, henc⟩ | ⟨heq, henc⟩ := hcases
  · exact ⟨fun _ => henc, fun heq => absurd heq (not_or.mpr hne)⟩
  · exact ⟨fun hne => absurd heq (not_or.mpr hne), fun _ => henc⟩

/-- Settles O10: a row of the table is some instruction's, and a word it matches decodes to that instruction's row. -/
theorem decoderFollowsOpcodeTable : Obligations.DecoderFollowsOpcodeTable := by
  unfold Obligations.DecoderFollowsOpcodeTable
  refine ⟨fun w i h => ⟨matchesWord_of_decodeWord h, (rowMatch i).2⟩, fun w => ?unknown,
    fun w => exists_decodeWord_iff_wellFormed, fun w a b => row_eq_of_matchesWord⟩
  rw [← Bool.not_eq_true, ← exists_decodeWord_iff_wellFormed]
  exact (decodesByTable_decodeWord w).unknown_iff

/-- Settles O7, by running the decoder on each word. -/
theorem decodeWrittenOutWords : Obligations.DecodeWrittenOutWords := by
  unfold Obligations.DecodeWrittenOutWords
  decide

end Sys2Proof
end

section
/-!
PROOFS. A step on an unknown word (R117, R305).
-/

namespace Sys2Proof.Machine

variable {s : State}

theorem toNat_wordAt_pc (s : State) : (wordAt s s.pc.toNat).toNat = fetchedWord s := toNat_bigEndian _ _

theorem phase_of_unassigned (hf : Fetches s) (hu : Unassigned (fetchedWord s)) :
    phase s = .unknown (wordAt s s.pc.toNat) := by
  obtain ⟨hfault, heven, hle⟩ := hf
  rw [← toNat_wordAt_pc] at hu
  exact phase_unknown hfault (fetchCheck_none.mpr ⟨heven, hle⟩) (decodeWord_of_unassigned hu)

/-- Settles O11: the decoder leaves exactly R90's list unassigned, and the phase of a step that fetches one of these words
reports it. -/
theorem unknownWordsAreReportedAndPassed : Obligations.UnknownWordsAreReportedAndPassed := by
  unfold Obligations.UnknownWordsAreReportedAndPassed
  refine ⟨fun w => unassigned_iff_decodeWord, fun s hf hu => ?_⟩
  have hphase := phase_of_unassigned hf hu
  refine ⟨?step, ?pc, ?output⟩
  case step => simp only [step, hphase, State.next2]
  case pc =>
    obtain ⟨-, -, hle⟩ := hf
    bv_omega
  case output =>
    simp only [stepOutput, hphase]
    rfl

end Sys2Proof.Machine
end

section
/-!
PROOFS. The phase of a step in the words of the rules (R111 to R115), and what a step does and returns in each phase.
-/

namespace Sys2Proof.Machine

variable {s : State}

theorem wordAt_pc (s : State) : wordAt s s.pc.toNat = BitVec.ofNat 16 (fetchedWord s) := rfl

theorem fetches_iff : Fetches s ↔ s.fault = none ∧ fetchCheck s.pc = none := by
  rw [fetchCheck_none, Fetches]

theorem phase_eq_run_iff {i : Instr} :
    phase s = .run i ↔ Fetches s ∧ decodeWord (BitVec.ofNat 16 (fetchedWord s)) = .ok i := by
  rw [fetches_iff, ← wordAt_pc]
  obtain ⟨k, hf, hp⟩ | ⟨k, hf, hc, hp⟩ | ⟨e, hf, hc, hd, hp⟩ | ⟨j, hf, hc, hd, hp⟩ := phase_cases s
  · simp [hp, hf]
  · simp [hp, hc]
  · simp [hp, hd]
  · simp [hp, hf, hc, hd]

theorem phase_eq_unknown_iff {w : Word} :
    phase s = .unknown w ↔ Fetches s ∧ Unassigned (fetchedWord s) ∧ w.toNat = fetchedWord s := by
  constructor
  · intro h
    obtain ⟨k, -, hp⟩ | ⟨k, -, -, hp⟩ | ⟨e, hf, hc, hd, hp⟩ | ⟨j, -, -, -, hp⟩ := phase_cases s <;> rw [h] at hp
    case inr.inr.inl =>
      obtain rfl := Phase.unknown.inj hp
      have hu : Unassigned (wordAt s s.pc.toNat).toNat :=
        unassigned_iff_decodeWord.mpr ((decodesByTable_decodeWord _).unknown_iff.mpr (by simp [hd]))
      rw [toNat_wordAt_pc] at hu
      exact ⟨fetches_iff.mpr ⟨hf, hc⟩, hu, toNat_wordAt_pc s⟩
    all_goals cases hp
  · rintro ⟨hf, hu, hw⟩
    rw [phase_of_unassigned hf hu, BitVec.eq_of_toNat_eq (hw.trans (toNat_wordAt_pc s).symm)]

theorem fetchCheck_odd {pc : Word} (h : pc.toNat % 2 = 1) : fetchCheck pc = some .misalignedFetch := if_pos h

theorem fetchCheck_even_above {pc : Word} (heven : pc.toNat % 2 = 0) (h : pc.toNat > 4094) :
    fetchCheck pc = some .fetchOutOfBounds := by
  rw [fetchCheck, if_neg (by omega), if_pos h]

theorem step_halted {k : FaultKind} (h : phase s = .halted k) : step s = .next s := by
  simp only [step, h]

theorem step_fetchFault {k : FaultKind} (h : phase s = .fetchFault k) : step s = .next (takeFault k s) := by
  simp only [step, h]

theorem step_unknown {w : Word} (h : phase s = .unknown w) : step s = .next s.next2 := by
  simp only [step, h]

theorem step_run {i : Instr} (h : phase s = .run i) : step s = exec i s := by
  simp only [step, h]

theorem stepOutput_halted {k : FaultKind} (h : phase s = .halted k) : stepOutput s = ⟨false, .faulted k⟩ := by
  simp only [stepOutput, h]

theorem stepOutput_fetchFault {k : FaultKind} (h : phase s = .fetchFault k) :
    stepOutput s = ⟨false, .faulted k⟩ := by
  simp only [stepOutput, h]

theorem stepOutput_unknown {w : Word} (h : phase s = .unknown w) : stepOutput s = ⟨false, .unknown w s.pc⟩ := by
  simp only [stepOutput, h]

/-- Settles O12: the phase of such a state is the run of the decoded instruction. -/
theorem stepRunsTheDecodedInstruction : Obligations.StepRunsTheDecodedInstruction := by
  unfold Obligations.StepRunsTheDecodedInstruction
  intro s i hf hd
  exact step_run (phase_eq_run_iff.mpr ⟨hf, hd⟩)

/-- Settles O14: a recorded fault is looked at before anything is fetched. -/
theorem faultStateStepChangesNothing : Obligations.FaultStateStepChangesNothing := by
  unfold Obligations.FaultStateStepChangesNothing
  intro s k hf
  have hp := phase_halted hf
  exact ⟨step_halted hp, stepOutput_halted hp⟩

/-- Settles O15: the alignment is checked before the bound (R304), and either check ends the step in fault entry. -/
theorem badFetchAddressFaults : Obligations.BadFetchAddressFaults := by
  unfold Obligations.BadFetchAddressFaults
  refine fun s hf => ⟨fun hodd => ?misaligned, fun heven hgt => ?outOfBounds⟩
  case misaligned =>
    have hp := phase_fetchFault hf (fetchCheck_odd hodd)
    exact ⟨step_fetchFault hp, stepOutput_fetchFault hp⟩
  case outOfBounds =>
    have hp := phase_fetchFault hf (fetchCheck_even_above heven hgt)
    exact ⟨step_fetchFault hp, stepOutput_fetchFault hp⟩

end Sys2Proof.Machine
end

section
/-!
PROOFS. The invariant of the core, one step on (R122): memory stays canonical under every store, the pc goes no higher than
the highest target of JP V0, and the only entries pushed are addresses after a fetched word.
-/

namespace Sys2Proof.Machine

variable {s t : State}

/-- The invariant speaks of memory, its reset contents, the stack and a bound of the pc, and of nothing else. -/
theorem State.Inv.of_pc_le (h : s.Inv) (hpc : t.pc.toNat ≤ 0x10FE) (hmem : t.mem = s.mem := by rfl)
    (hglyphs : t.glyphs = s.glyphs := by rfl) (hstack : t.stack = s.stack := by rfl) : t.Inv where
  memWf := by rw [hmem, hglyphs]; exact h.memWf
  pcBound := hpc
  stackBound := by rw [hstack]; exact h.stackBound
  stackEven := by rw [hstack]; exact h.stackEven

theorem State.Inv.takeFault (h : s.Inv) (k : FaultKind) : (takeFault k s).Inv := h.of_pc_le h.pcBound

theorem State.Inv.store (h : s.Inv) (a : Nat) (bs : List Byte) : (s.store a bs).Inv where
  memWf := Memory.wf_writeBytes s.glyphs bs a h.memWf
  pcBound := h.pcBound
  stackBound := h.stackBound
  stackEven := h.stackEven

/-- An entry within the bounds of R122 may be put anywhere on the stack. -/
theorem State.Inv.setStack (h : s.Inv) {j : Nat} (hj : j < 16) {a : Word} (hle : a.toNat ≤ 4096)
    (heven : a.toNat % 2 = 0) : State.Inv { s with stack := s.stack.set j a } where
  memWf := h.memWf
  pcBound := h.pcBound
  stackBound k := by
    rw [Vector.getElem_set]
    split
    · exact hle
    · exact h.stackBound k
  stackEven k := by
    rw [Vector.getElem_set]
    split
    · exact heven
    · exact h.stackEven k

theorem toNat_addrZext_le (nnn : Addr12) : nnn.zext.toNat ≤ 4095 := by
  have := nnn.isLt
  simp only [Addr12.zext, BitVec.toNat_setWidth]
  omega

/-- JP V0 reaches the bound of R122 at `nnn = 0xFFF`, `V0 = 0xFF`. -/
theorem toNat_zext_add_zext_le (nnn : Addr12) (b : Byte) : (nnn.zext + b.zext).toNat ≤ 0x10FE := by
  have := nnn.isLt
  have := b.isLt
  simp only [Addr12.zext, Byte.zext, BitVec.toNat_add, BitVec.toNat_setWidth]
  omega

/-- An answer that is a next state with the invariant. -/
def AnswersInv (r : Result) : Prop := ∃ t, r = .next t ∧ t.Inv

theorem answersInv_takeFault (h : s.Inv) (k : FaultKind) : AnswersInv (.next (takeFault k s)) :=
  ⟨_, rfl, h.takeFault k⟩

theorem answersInv_withRange {n : Nat} (h : s.Inv) (ht : t.Inv) : AnswersInv (withRange n s t) := by
  obtain ⟨-, hk⟩ | ⟨-, hk⟩ := withRange_cases n s t <;> rw [hk]
  · exact ⟨t, rfl, ht⟩
  · exact answersInv_takeFault h _

theorem answersInv_execRet (h : s.Inv) : AnswersInv (execRet s) := by
  obtain hsp | hsp := Nat.eq_zero_or_pos s.sp.val
  · rw [execRet_empty hsp]
    exact answersInv_takeFault h _
  · have hle := h.stackBound ⟨s.sp.val - 1, by omega⟩
    exact ⟨_, execRet_pop hsp, h.of_pc_le (Nat.le_trans hle (by decide))⟩

/-! ### Where a step has fetched -/

theorem Fetches.pc_le (hf : Fetches s) : s.pc.toNat ≤ 4094 := by
  obtain ⟨-, -, hle⟩ := hf
  exact hle

theorem Fetches.pc_even (hf : Fetches s) : s.pc.toNat % 2 = 0 := by
  obtain ⟨-, heven, -⟩ := hf
  exact heven

theorem Fetches.toNat_pc_add_two (hf : Fetches s) : (s.pc + 2).toNat = s.pc.toNat + 2 := by
  have := hf.pc_le
  bv_omega

theorem Fetches.toNat_pc_add_four (hf : Fetches s) : (s.pc + 4).toNat = s.pc.toNat + 4 := by
  have := hf.pc_le
  bv_omega

theorem Fetches.pc_add_two_le (hf : Fetches s) : (s.pc + 2).toNat ≤ 0x10FE := by
  have := hf.pc_le
  rw [hf.toNat_pc_add_two]
  omega

section Fetched

variable (h : s.Inv) (hf : Fetches s)

include h hf

theorem State.Inv.skipIf (c : Bool) : (s.skipIf c).Inv := by
  refine h.of_pc_le ?_
  have := hf.pc_le
  rw [State.skipIf_pc]
  split
  · rw [hf.toNat_pc_add_four]
    omega
  · exact hf.pc_add_two_le

theorem answersInv_skipOnKey (want : Bool) (x : RegIdx) : AnswersInv (skipOnKey want x s) := by
  obtain ⟨-, hk⟩ | ⟨_, hk⟩ := skipOnKey_cases want x s <;> rw [hk]
  · exact answersInv_takeFault h _
  · exact ⟨_, rfl, h.skipIf hf _⟩

/-- R133: the address pushed is the one after the fetched CALL, even and at most 4096. -/
theorem answersInv_execCall (nnn : Addr12) : AnswersInv (execCall nnn s) := by
  obtain hsp | hsp := s.sp_room_or_full
  · have heven := hf.pc_even
    have hle := hf.pc_le
    have hpc := hf.toNat_pc_add_two
    have hpush := h.setStack hsp (a := s.pc + 2) (by omega) (by omega)
    exact ⟨_, execCall_room nnn hsp, hpush.of_pc_le (Nat.le_trans (toNat_addrZext_le nnn) (by decide))⟩
  · rw [execCall_full nnn hsp]
    exact answersInv_takeFault h _

/-- R277: the wait leaves the pc where it is until it resolves. -/
theorem answersInv_execLdVxK (x : RegIdx) : AnswersInv (execLdVxK x s) := by
  obtain ⟨-, hk⟩ | ⟨-, hk⟩ | ⟨_, -, -, hk⟩ | ⟨_, -, -, hk⟩ := execLdVxK_cases x s <;> rw [hk]
  · exact ⟨_, rfl, h.of_pc_le h.pcBound⟩
  · cases leastPressed s.keys <;> exact ⟨_, rfl, h.of_pc_le h.pcBound⟩
  · exact ⟨_, rfl, h⟩
  · exact ⟨_, rfl, h.of_pc_le hf.pc_add_two_le⟩

/-- Instructions keep the invariant where a step could have fetched them. -/
theorem exec_answersInv (i : Instr) : AnswersInv (exec i s) := by
  cases i with
  | ret => exact answersInv_execRet h
  | call nnn => exact answersInv_execCall h hf nnn
  | jp nnn => exact ⟨_, rfl, h.of_pc_le (Nat.le_trans (toNat_addrZext_le nnn) (by decide))⟩
  | jpV0 nnn => exact ⟨_, rfl, h.of_pc_le (toNat_zext_add_zext_le nnn (s.reg 0))⟩
  | seImm | sneImm | seReg | sneReg => exact ⟨_, rfl, h.skipIf hf _⟩
  | skp x => exact answersInv_skipOnKey h hf true x
  | sknp x => exact answersInv_skipOnKey h hf false x
  | ldVxK x => exact answersInv_execLdVxK h hf x
  | drw | ldVxMi => exact answersInv_withRange h (h.of_pc_le hf.pc_add_two_le)
  | ldBVx | ldMiVx => exact answersInv_withRange h ((h.store _ _).of_pc_le hf.pc_add_two_le)
  | cls | ldImm | addImm | ldReg | orReg | andReg | xorReg | addReg | sub | subn | shr | shl | rnd | ldI | addIVx
  | ldFVx | ldVxDt | ldDtVx | ldStVx => exact ⟨_, rfl, h.of_pc_le hf.pc_add_two_le⟩

end Fetched

theorem step_answersInv (h : s.Inv) : AnswersInv (step s) := by
  cases hp : phase s with
  | halted k => exact ⟨s, step_halted hp, h⟩
  | fetchFault k => exact ⟨_, step_fetchFault hp, h.takeFault k⟩
  | unknown w =>
    obtain ⟨hf, -, -⟩ := phase_eq_unknown_iff.mp hp
    exact ⟨_, step_unknown hp, h.of_pc_le hf.pc_add_two_le⟩
  | run i =>
    obtain ⟨hf, -⟩ := phase_eq_run_iff.mp hp
    rw [step_run hp]
    exact exec_answersInv h hf i

/-- Settles O23: every phase that moves the pc has fetched, so the pc it moves from is even and at most 4094. -/
theorem stepKeepsInvariant : Obligations.StepKeepsInvariant := by
  unfold Obligations.StepKeepsInvariant
  intro s t h hstep
  obtain ⟨t', ht', hinv⟩ := step_answersInv h
  obtain rfl : t' = t := Host.Outcome.next.inj (ht'.symm.trans hstep)
  exact hinv

end Sys2Proof.Machine
end

section
/-!
PROOFS. The one fault condition of an instruction (R300, R303): an instruction answers fault entry exactly where its
condition holds, and elsewhere leaves the fault status as it is.
-/

namespace Sys2Proof.Machine

variable {s : State} {i : Instr}

/-- The answer `r` raises the fault `f` in state `s` and does nothing else, or, with no `f`, keeps the fault status. -/
def AnswersFault (s : State) (f : Option FaultKind) (r : Result) : Prop :=
  match f with
  | some k => r = .next (takeFault k s)
  | none => ∃ t, r = .next t ∧ t.fault = s.fault

theorem answersFault_ite {p : Prop} [Decidable p] {k : FaultKind} {r : Result}
    (hfault : p → r = .next (takeFault k s)) (hok : ¬ p → ∃ t, r = .next t ∧ t.fault = s.fault) :
    AnswersFault s (if p then some k else none) r := by
  split
  case isTrue hp => exact hfault hp
  case isFalse hp => exact hok hp

/-- R56: `p` is the condition under which one of the `n` bytes at I does not exist. -/
theorem answersFault_withRange {p : Prop} [Decidable p] {n : Nat} {k : State}
    (hp : p ↔ ¬ (n = 0 ∨ s.idx.toNat + n ≤ 4096)) (hk : k.fault = s.fault := by rfl) :
    AnswersFault s (if p then some .dataOutOfBounds else none) (withRange n s k) := by
  rw [← inRange_iff, Bool.not_eq_true] at hp
  refine answersFault_ite (fun h => withRange_fault k (hp.mp h)) (fun h => ⟨k, withRange_ok k ?_, hk⟩)
  rwa [← Bool.not_eq_false, ← hp]

/-- R272. -/
theorem answersFault_skipOnKey (want : Bool) (x : RegIdx) :
    AnswersFault s (if (s.reg x).toNat > 15 then some .keyIndexOutOfRange else none) (skipOnKey want x s) := by
  obtain ⟨hgt, hk⟩ | ⟨hlt, hk⟩ := skipOnKey_cases want x s <;> rw [hk]
  · exact answersFault_ite (fun _ => rfl) (fun h => absurd hgt h)
  · exact answersFault_ite (fun h => absurd hlt (Nat.not_lt.mpr h)) (fun _ => ⟨_, rfl, rfl⟩)

/-- A pending key wait is no fault (R274 to R276). -/
theorem answersFault_execLdVxK (x : RegIdx) : AnswersFault s none (execLdVxK x s) := by
  obtain ⟨-, hk⟩ | ⟨-, hk⟩ | ⟨_, -, -, hk⟩ | ⟨_, -, -, hk⟩ := execLdVxK_cases x s <;> rw [hk]
  · exact ⟨_, rfl, rfl⟩
  · cases leastPressed s.keys <;> exact ⟨_, rfl, rfl⟩
  · exact ⟨_, rfl, rfl⟩
  · exact ⟨_, rfl, rfl⟩

theorem exec_answersFault (i : Instr) (s : State) : AnswersFault s (instrFault i s) (exec i s) := by
  cases i with
  | ret => exact answersFault_ite execRet_empty (fun h => ⟨_, execRet_pop (Nat.pos_of_ne_zero h), rfl⟩)
  | call nnn =>
    exact answersFault_ite (execCall_full nnn)
      (fun h => ⟨_, execCall_room nnn (s.sp_room_or_full.resolve_right h), rfl⟩)
  | drw | ldBVx | ldMiVx | ldVxMi => exact answersFault_withRange (by omega)
  | skp x => exact answersFault_skipOnKey true x
  | sknp x => exact answersFault_skipOnKey false x
  | ldVxK x => exact answersFault_execLdVxK x
  | cls | jp | jpV0 | seImm | sneImm | seReg | sneReg | ldImm | addImm | ldReg | orReg | andReg | xorReg | addReg
  | sub | subn | shr | shl | rnd | ldI | addIVx | ldFVx | ldVxDt | ldDtVx | ldStVx => exact ⟨_, rfl, rfl⟩

theorem exec_of_instrFault_some {k : FaultKind} (h : instrFault i s = some k) :
    exec i s = .next (takeFault k s) := by
  have ha := exec_answersFault i s
  rwa [h] at ha

theorem exec_of_instrFault_none (h : instrFault i s = none) : ∃ t, exec i s = .next t ∧ t.fault = s.fault := by
  have ha := exec_answersFault i s
  rwa [h] at ha

/-- Settles O18: fault entry where the condition holds (R301), the old fault status, which is none, where it does not. -/
theorem instructionFaultsExactlyAndThenOnlyRecordsIt :
    Obligations.InstructionFaultsExactlyAndThenOnlyRecordsIt := by
  unfold Obligations.InstructionFaultsExactlyAndThenOnlyRecordsIt
  intro i s hs
  cases hi : instrFault i s with
  | some k =>
    refine ⟨takeFault k s, exec_of_instrFault_some hi, by simp, fun k' hk' => ?_⟩
    obtain rfl := Option.some.inj hk'
    rfl
  | none =>
    obtain ⟨t, ht, hkeep⟩ := exec_of_instrFault_none hi
    exact ⟨t, ht, by simp [hkeep, hs], nofun⟩

end Sys2Proof.Machine
end

section
/-!
PROOFS. What a step returns (R118, R119): a step ends in a fault, on an unknown word, or with an executed instruction, and
its output tells which.
-/

namespace Sys2Proof.Machine

variable {s : State} {i : Instr}

theorem stepOutput_run_fault {k : FaultKind} (hp : phase s = .run i) (hi : instrFault i s = some k) :
    stepOutput s = ⟨false, .faulted k⟩ := by
  simp only [stepOutput, hp, exec_of_instrFault_some hi, instrOutput, takeFault_fault]

theorem stepOutput_run_ok (hp : phase s = .run i) (hi : instrFault i s = none) :
    stepOutput s = ⟨marksDirty i, .none⟩ := by
  obtain ⟨hf, -⟩ := phase_eq_run_iff.mp hp
  obtain ⟨hnone, -⟩ := fetches_iff.mp hf
  obtain ⟨t, ht, hkeep⟩ := exec_of_instrFault_none hi
  simp only [stepOutput, hp, ht, instrOutput, hkeep, hnone]

/-- The three ways a step from `s` ends, in the state `t`. -/
inductive StepOutcome (s t : State) : Prop
  /-- the fault state, or a fault of the fetch or of the instruction -/
  | faulted (k : FaultKind) (hfault : t.fault = some k) (hphase : ∀ w, phase s ≠ .unknown w)
      (hout : stepOutput s = ⟨false, .faulted k⟩)
  | unknown (w : Word) (hfault : t.fault = none) (hphase : phase s = .unknown w)
      (hout : stepOutput s = ⟨false, .unknown w s.pc⟩)
  | ran (i : Instr) (hfault : t.fault = none) (hphase : phase s = .run i) (hok : instrFault i s = none)
      (hout : stepOutput s = ⟨marksDirty i, .none⟩)

theorem exists_stepOutcome (s : State) : ∃ t, step s = .next t ∧ StepOutcome s t := by
  obtain ⟨k, hf, hp⟩ | ⟨k, -, -, hp⟩ | ⟨_, hf, -, -, hp⟩ | ⟨i, hf, -, -, hp⟩ := phase_cases s
  · exact ⟨s, step_halted hp, .faulted k hf (by simp [hp]) (stepOutput_halted hp)⟩
  · exact ⟨_, step_fetchFault hp, .faulted k rfl (by simp [hp]) (stepOutput_fetchFault hp)⟩
  · exact ⟨_, step_unknown hp, .unknown _ hf hp (stepOutput_unknown hp)⟩
  · rw [step_run hp]
    cases hi : instrFault i s with
    | some k =>
      exact ⟨_, exec_of_instrFault_some hi, .faulted k rfl (by simp [hp]) (stepOutput_run_fault hp hi)⟩
    | none =>
      obtain ⟨t, ht, hkeep⟩ := exec_of_instrFault_none hi
      exact ⟨t, ht, .ran i (hkeep.trans hf) hp hi (stepOutput_run_ok hp hi)⟩

theorem stepOutcome_of_step {t : State} (h : step s = .next t) : StepOutcome s t := by
  obtain ⟨t', ht', hout⟩ := exists_stepOutcome s
  obtain rfl : t' = t := Host.Outcome.next.inj (ht'.symm.trans h)
  exact hout

/-- R118: dirty is true iff an instruction that marks the display ran without fault. -/
theorem dirty_iff :
    (stepOutput s).dirty = true ↔ ∃ i, phase s = .run i ∧ instrFault i s = none ∧ marksDirty i = true := by
  constructor
  · intro h
    obtain ⟨t, -, hout⟩ := exists_stepOutcome s
    cases hout with
    | faulted k _ _ hout => simp [hout] at h
    | unknown w _ _ hout => simp [hout] at h
    | ran i _ hp hi hout => exact ⟨i, hp, hi, by simpa [hout] using h⟩
  · rintro ⟨i, hp, hi, hd⟩
    rw [stepOutput_run_ok hp hi, hd]

theorem marksDirty_iff : marksDirty i = true ↔ i = .cls ∨ ∃ x y n, i = .drw x y n := by
  cases i <;> simp [marksDirty]

theorem instrFault_drw_none_iff {x y : RegIdx} {n : Fin 16} :
    instrFault (.drw x y n) s = none ↔ SpriteInRange n s := by
  simp only [instrFault, SpriteInRange, ite_eq_right_iff, reduceCtorEq, imp_false]
  omega

/-- Settles O21: CLS has no fault condition, and that of DRW is that a sprite byte does not exist. -/
theorem dirtyExactlyOnClsAndDrw : Obligations.DirtyExactlyOnClsAndDrw := by
  unfold Obligations.DirtyExactlyOnClsAndDrw
  intro s
  simp only [dirty_iff, phase_eq_run_iff, marksDirty_iff]
  constructor
  · rintro ⟨i, ⟨hf, hd⟩, hok, rfl | ⟨x, y, n, rfl⟩⟩
    · exact ⟨hf, .inl hd⟩
    · exact ⟨hf, .inr ⟨x, y, n, hd, instrFault_drw_none_iff.mp hok⟩⟩
  · rintro ⟨hf, hd | ⟨x, y, n, hd, hr⟩⟩
    · exact ⟨.cls, ⟨hf, hd⟩, rfl, .inl rfl⟩
    · exact ⟨.drw x y n, ⟨hf, hd⟩, instrFault_drw_none_iff.mpr hr, .inr ⟨x, y, n, rfl⟩⟩

/-- Settles O22, outcome by outcome. -/
theorem stepEventTellsTheOutcome : Obligations.StepEventTellsTheOutcome := by
  unfold Obligations.StepEventTellsTheOutcome
  intro s t hstep
  have hunknown (w a : Word) :
      (Fetches s ∧ Unassigned (fetchedWord s) ∧ w.toNat = fetchedWord s ∧ a = s.pc) ↔
        phase s = .unknown w ∧ a = s.pc := by
    rw [phase_eq_unknown_iff, and_assoc, and_assoc]
  simp only [hunknown]
  cases stepOutcome_of_step hstep with
  | faulted k hfault hphase hout => simp [hout, hfault, hphase]
  | unknown w hfault hphase hout => simp [hout, hfault, hphase, eq_comm]
  | ran i hfault hphase _ hout => simp [hout, hfault, hphase]

end Sys2Proof.Machine
end

section
/-!
PROOFS. The model's placing of a word (log entry 20): the next step fetches it, from every state.
-/

namespace Sys2Proof.Machine

variable (s : State) (w : Word)

/-- The pc of the placed word: the state's own, or the entry point if no step could fetch there. -/
def State.placePc (s : State) : Word := if (fetchCheck s.pc).isNone then s.pc else 0x200

theorem fetchCheck_placePc : fetchCheck s.placePc = none := by
  unfold State.placePc
  split
  case isTrue h => exact Option.isNone_iff_eq_none.mp h
  case isFalse => decide

@[simp] theorem placeFetchWord_fault : (placeFetchWord s w).fault = none := rfl

@[simp] theorem placeFetchWord_pc : (placeFetchWord s w).pc = s.placePc := rfl

theorem read_placeFetchWord (a : Nat) :
    (placeFetchWord s w).read a = (s.store s.placePc.toNat [highByte w, lowByte w]).read a := rfl

/-- The high byte stands at the pc and the low byte after it (R52). -/
theorem wordAt_placeFetchWord : wordAt (placeFetchWord s w) s.placePc.toNat = w := by
  obtain ⟨-, hle⟩ := fetchCheck_none.mp (fetchCheck_placePc s)
  have hfits : s.placePc.toNat + [highByte w, lowByte w].length ≤ 4096 := Nat.add_le_add_right hle 2
  have hhi : (placeFetchWord s w).read s.placePc.toNat = highByte w := by
    simp [read_placeFetchWord, State.read_store _ _ _ _ hfits]
  have hlo : (placeFetchWord s w).read (s.placePc.toNat + 1) = lowByte w := by
    simp [read_placeFetchWord, State.read_store _ _ _ _ hfits]
  rw [wordAt, hhi, hlo, bigEndian_bytes]

theorem phase_placeFetchWord {i : Instr} (h : decodeWord w = .ok i) : phase (placeFetchWord s w) = .run i :=
  phase_run (placeFetchWord_fault s w) (fetchCheck_placePc s)
    ((congrArg decodeWord (wordAt_placeFetchWord s w)).trans h)

/-- The bytes of a table word, in memory order, decode as the word does (R52). -/
theorem decodeWord_of_decodeTableWord {nbits n : Nat} {i : Instr} (h : decodeTableWord nbits n = some i) :
    decodeWord (tableWord nbits n) = .ok i := by
  rw [decodeTableWord, decode, bigEndian_bytes] at h
  cases hd : decodeWord (tableWord nbits n) with
  | ok j => simpa [hd] using h
  | error e => simp [hd] at h

/-- Settles O13: the placed word is the one the next step fetches, and no check stops that fetch. -/
theorem placedWordIsTheNextInstruction : Obligations.PlacedWordIsTheNextInstruction := by
  unfold Obligations.PlacedWordIsTheNextInstruction
  intro s w i h
  exact step_run (phase_placeFetchWord s _ (decodeWord_of_decodeTableWord h))

end Sys2Proof.Machine
end

section
/-!
PROOFS. Words as numbers (R80, R81): a format of the encoder as the sum of its fields, and the low nibble that 5xy? and
9xy? do not look at (R86).
-/

namespace Sys2Proof

variable (op : Nat) (x y : RegIdx) (kk : Byte) (n : Fin 16)

theorem formatXK_eq_ofNat : formatXK op x kk = BitVec.ofNat 16 (op * 4096 + 256 * x + kk.toNat) := by
  rw [formatXK, Nat.mul_comm x.val]

theorem formatXY_eq_ofNat : formatXY op x y n = BitVec.ofNat 16 (op * 4096 + 256 * x + 16 * y + n) := by
  rw [formatXY, Nat.mul_comm x.val, Nat.mul_comm y.val]

theorem fieldOp_formatXY {op : Nat} (h : op < 16) : fieldOp (formatXY op x y n) = op := by
  rw [fieldOp, toNat_formatXY h]
  omega

/-- R86, R136. -/
theorem decodeWord_formatXY_eq_seReg : decodeWord (formatXY 0x5 x y n) = .ok (.seReg x y) :=
  decodeWord_ok_iff.mpr
    ⟨(matchesWord_op (by decide)).mpr (fieldOp_formatXY x y n (by decide)), by simp [Instr.withFieldsOf]⟩

/-- R86, R137. -/
theorem decodeWord_formatXY_eq_sneReg : decodeWord (formatXY 0x9 x y n) = .ok (.sneReg x y) :=
  decodeWord_ok_iff.mpr
    ⟨(matchesWord_op (by decide)).mpr (fieldOp_formatXY x y n (by decide)), by simp [Instr.withFieldsOf]⟩

end Sys2Proof
end

section
/-!
PROOFS. Control transfer (R130 to R138): an instruction that moves only the pc keeps the frame, a call writes one stack
entry, and a return reads it back.
-/

namespace Sys2Proof.Machine

variable {s : State}

/-- The decoder undoes the encoder, so the encoder's word is all there is to show. -/
theorem encodedAs_of_encode {wd : Nat} {i : Instr} (h : encode i = BitVec.ofNat 16 wd) :
    EncodedAs wd i :=
  ⟨by rw [← h]; exact decodeOfEncodeIsIdentity i, h⟩

theorem frame_setPc (s : State) (a : Word) : Frame [] s (s.setPc a) :=
  ⟨fun _ _ => rfl, fun _ => rfl, ⟨rfl, rfl, rfl, rfl, rfl, rfl, rfl, rfl, rfl, rfl, rfl, rfl⟩⟩

/-! ### Skips and jumps -/

/-- R130, for a condition `p` that the flag `c` computes. -/
theorem skipIf_moves_pc_only {c : Bool} {p : Prop} [Decidable p] (hc : c = true ↔ p) :
    ∃ t, (.next (s.skipIf c) : Result) = .next t ∧ Frame [] s t ∧ t.pc = (if p then s.pc + 4 else s.pc + 2) := by
  refine ⟨_, rfl, frame_setPc s _, ?pc⟩
  rw [State.skipIf_pc]
  exact if_congr hc rfl rfl

theorem toNat_addrZext (nnn : Addr12) : nnn.zext.toNat = nnn.toNat :=
  BitVec.toNat_setWidth_of_le (by decide)

theorem toNat_byteZext (b : Byte) : b.zext.toNat = b.toNat :=
  BitVec.toNat_setWidth_of_le (by decide)

/-- R138: two zero-extended operands are too small for their sum to wrap. -/
theorem toNat_addrZext_add_byteZext (nnn : Addr12) (b : Byte) :
    (nnn.zext + b.zext).toNat = nnn.toNat + b.toNat := by
  have := nnn.isLt
  have := b.isLt
  rw [BitVec.toNat_add, toNat_addrZext, toNat_byteZext]
  omega

/-! ### Call and return -/

/-- The entry at `SP` after a push, and every other one (R133). -/
theorem getElem_stack_set (h : s.sp.val < 16) (a : Word) (j : Fin 16) :
    (s.stack.set s.sp.val a)[j.val] = if j.val = s.sp.val then a else s.stack[j.val] := by
  rw [Vector.getElem_set]
  exact if_congr eq_comm rfl rfl

theorem execRet_of_sp_eq_succ {j : Fin 16} (h : s.sp.val = j.val + 1) :
    execRet s = .next (({ s with sp := j.castSucc } : State).setPc s.stack[j.val]) := by
  simp only [execRet_pop (s := s) (by omega), h, Nat.add_sub_cancel]
  rfl

/-- A call that has room pushes at `SP`, and a return from where it jumped pops that entry, which stays (R24). -/
theorem execRet_of_execCall (nnn : Addr12) (h : s.sp.val < 16) :
    ∃ t, execCall nnn s = .next t ∧
      execRet t = .next (({ s with stack := s.stack.set s.sp.val (s.pc + 2) } : State).setPc (s.pc + 2)) := by
  refine ⟨_, execCall_room nnn h, ?_⟩
  rw [execRet_of_sp_eq_succ (j := ⟨s.sp.val, h⟩) rfl]
  simp only [State.setPc_stack, Vector.getElem_set_self]
  rfl

/-! ### The obligations -/

/-- Settles O34: after `execRet_of_execCall` only the pc and the stack entry differ. -/
theorem returnUndoesCall : Obligations.ReturnUndoesCall := by
  unfold Obligations.ReturnUndoesCall
  intro nnn s h
  obtain ⟨t, hcall, hret⟩ := execRet_of_execCall nnn h
  exact ⟨t, _, hcall, hret, rfl, rfl, getElem_stack_set h _, frame_setPc _ _⟩

/-- Settles O30: the four skips are one operation on four conditions. -/
theorem comparisonSkips : Obligations.ComparisonSkips := by
  unfold Obligations.ComparisonSkips
  intro x y kk s
  refine ⟨⟨encodedAs_of_encode (formatXK_eq_ofNat 0x3 x kk), skipIf_moves_pc_only beq_iff_eq⟩,
    ⟨encodedAs_of_encode (formatXK_eq_ofNat 0x4 x kk), skipIf_moves_pc_only bne_iff_ne⟩,
    ⟨fun z hz => ?seRegWords, skipIf_moves_pc_only beq_iff_eq⟩,
    ⟨fun z hz => ?sneRegWords, skipIf_moves_pc_only bne_iff_ne⟩⟩
  case seRegWords => exact formatXY_eq_ofNat 0x5 x y ⟨z, hz⟩ ▸ decodeWord_formatXY_eq_seReg x y ⟨z, hz⟩
  case sneRegWords => exact formatXY_eq_ofNat 0x9 x y ⟨z, hz⟩ ▸ decodeWord_formatXY_eq_sneReg x y ⟨z, hz⟩

/-- Settles O31: both jumps are a `setPc` of their target. -/
theorem jumpTargets : Obligations.JumpTargets := by
  unfold Obligations.JumpTargets
  intro nnn s
  exact ⟨⟨encodedAs_of_encode rfl, _, rfl, frame_setPc s _, toNat_addrZext nnn⟩,
    ⟨encodedAs_of_encode rfl, _, rfl, frame_setPc s _, toNat_addrZext_add_byteZext nnn (s.reg 0)⟩⟩

/-- Settles O32, by whether the stack has room. -/
theorem callPushesReturnAddress : Obligations.CallPushesReturnAddress := by
  unfold Obligations.CallPushesReturnAddress
  refine fun nnn s => ⟨encodedAs_of_encode rfl, fun hroom => ?room, fun hfull => ?full⟩
  case room =>
    exact ⟨_, execCall_room nnn hroom, toNat_addrZext nnn, rfl, getElem_stack_set hroom _, frame_setPc _ _⟩
  case full => exact ⟨_, execCall_full nnn hfull, rfl⟩

/-- Settles O33, by whether the stack holds an entry. -/
theorem returnPopsProgramCounter : Obligations.ReturnPopsProgramCounter := by
  unfold Obligations.ReturnPopsProgramCounter
  refine fun s => ⟨encodedAs_of_encode rfl, fun j hj => ?entry, fun hempty => ?empty⟩
  case entry => exact ⟨_, execRet_of_sp_eq_succ hj, rfl, rfl, frame_setPc _ _⟩
  case empty => exact ⟨_, execRet_empty hempty, rfl⟩

end Sys2Proof.Machine
end

section
/-!
PROOFS. The register file and ALU (R160 to R173): an instruction writes one register, or a result and then the flag
(R161), and moves past its word; the flags are said in exact arithmetic (R8).
-/

namespace Sys2Proof.Machine

variable {s : State}

/-- The words of family 8, where the low nibble tells the operations apart (R87). -/
theorem encodedAs_of_encode_family8 {i : Instr} {x y : RegIdx} {n : Fin 16} (h : encode i = formatXY 0x8 x y n) :
    EncodedAs (0x8000 + n + 256 * x + 16 * y) i := by
  refine encodedAs_of_encode (h.trans ?_)
  rw [formatXY_eq_ofNat]
  congr 1
  omega

/-- Registers and pc aside, nothing has changed, so the frame is the registers' alone. -/
theorem frame_of_keepsRegs {except : List RegIdx} {v : Vector Byte 16} {a : Word}
    (h : KeepsRegs except s { s with v := v, pc := a }) : Frame except s { s with v := v, pc := a } :=
  ⟨h, fun _ => rfl, ⟨rfl, rfl, rfl, rfl, rfl, rfl, rfl, rfl, rfl, rfl, rfl, rfl⟩⟩

/-! ### One register -/

theorem frame_setReg_next2 (s : State) (x : RegIdx) (b : Byte) : Frame [x] s (s.setReg x b).next2 :=
  frame_of_keepsRegs fun _ hr => State.reg_setReg_other s b (List.mem_singleton.not.mp hr)

/-! ### A result and a flag -/

theorem toNat_flagByte (c : Bool) : (flagByte c).toNat = if c then 1 else 0 := by
  cases c <;> rfl

theorem toNat_carryFlag (a b : Byte) : (carryFlag a b).toNat = if a.toNat + b.toNat > 255 then 1 else 0 := by
  simp only [carryFlag, toNat_flagByte, decide_eq_true_iff]

theorem toNat_noBorrowFlag (a b : Byte) : (noBorrowFlag a b).toNat = if a.toNat < b.toNat then 0 else 1 := by
  simp only [noBorrowFlag, toNat_flagByte, Bool.not_eq_true', decide_eq_false_iff_not, ite_not]

theorem toNat_lowBitFlag (src : Byte) : (lowBitFlag src).toNat = src.toNat % 2 := by
  have hbit : src.getLsbD 0 = decide (src.toNat % 2 = 1) := Nat.testBit_zero _
  simp only [lowBitFlag, toNat_flagByte, hbit, decide_eq_true_iff]
  split <;> omega

theorem toNat_highBitFlag (src : Byte) : (highBitFlag src).toNat = src.toNat / 128 := by
  have hbit : src.getLsbD 7 = decide (128 ≤ src.toNat) := BitVec.msb_eq_decide src
  have := src.isLt
  simp only [highBitFlag, toNat_flagByte, hbit, decide_eq_true_iff]
  split <;> omega

theorem toNat_byteSub (a b : Byte) : (a - b).toNat = (a.toNat + 256 - b.toNat) % 256 := by
  have := b.isLt
  rw [BitVec.toNat_sub]
  congr 1
  omega

/-- R161, for a result and a flag whose numbers are known: the flag is written last, so it stands when `x = 15`. -/
theorem setResultAndFlag_next2_answers (x : RegIdx) {r f : Byte} {result flag : Nat} (hr : r.toNat = result)
    (hf : f.toNat = flag) :
    ∃ t, (.next (s.setResultAndFlag x r f).next2 : Result) = .next t ∧ (x ≠ 15 → (t.reg x).toNat = result) ∧
      (t.reg 15).toNat = flag ∧ t.pc = s.pc + 2 ∧ Frame [x, 15] s t := by
  refine ⟨_, rfl, fun hx => ?result, ?flag, rfl, frame_of_keepsRegs fun r' hr' => ?frame⟩
  case result => rw [State.reg_next2, State.reg_setResultAndFlag, if_neg hx, if_pos rfl, hr]
  case flag => rw [State.reg_next2, State.reg_setResultAndFlag, if_pos rfl, hf]
  case frame => exact State.reg_setResultAndFlag_other r f (by simpa using hr')

/-- The model's choice of the source is the rule's (R171, R172). -/
theorem IsShiftSource.eq {x y : RegIdx} {src : Byte} (h : IsShiftSource s x y src) : shiftSource s x y = src := by
  obtain ⟨hlegacy, hrevised⟩ := h
  cases hq : s.quirks.shift with
  | legacy => simp only [shiftSource, hq, hlegacy hq]
  | revised => simp only [shiftSource, hq, hrevised hq]

/-! ### The obligations -/

/-- Settles O35: three writes of one register. -/
theorem setAddAndMove : Obligations.SetAddAndMove := by
  unfold Obligations.SetAddAndMove
  intro x y kk s
  refine ⟨⟨encodedAs_of_encode (formatXK_eq_ofNat 0x6 x kk), _, rfl, ?set, rfl, frame_setReg_next2 s x _⟩,
    ⟨encodedAs_of_encode (formatXK_eq_ofNat 0x7 x kk), _, rfl, ?add, rfl, frame_setReg_next2 s x _⟩,
    ⟨encodedAs_of_encode_family8 (n := 0x0) rfl, _, rfl, ?move, rfl, frame_setReg_next2 s x _⟩⟩
  case set => exact State.reg_setReg_same s x kk
  case add => rw [State.reg_next2, State.reg_setReg_same, BitVec.toNat_add]
  case move => exact State.reg_setReg_same s x (s.reg y)

/-- Settles O36: the written byte has the bits the rule says, and no second write touches VF. -/
theorem bitwiseOperations : Obligations.BitwiseOperations := by
  unfold Obligations.BitwiseOperations
  intro x y s
  refine ⟨⟨encodedAs_of_encode_family8 (n := 0x1) rfl, _, rfl, fun k _ => ?or, rfl, frame_setReg_next2 s x _⟩,
    ⟨encodedAs_of_encode_family8 (n := 0x2) rfl, _, rfl, fun k _ => ?and, rfl, frame_setReg_next2 s x _⟩,
    ⟨encodedAs_of_encode_family8 (n := 0x3) rfl, _, rfl, fun k _ => ?xor, rfl, frame_setReg_next2 s x _⟩⟩
  case or => rw [State.reg_next2, State.reg_setReg_same, BitVec.getLsbD_or]
  case and => rw [State.reg_next2, State.reg_setReg_same, BitVec.getLsbD_and]
  case xor => rw [State.reg_next2, State.reg_setReg_same, BitVec.getLsbD_xor]

/-- Settles O37: wrapping addition is the sum modulo 256, and the carry is taken of the exact sum. -/
theorem addRegSumAndCarry : Obligations.AddRegSumAndCarry := by
  unfold Obligations.AddRegSumAndCarry
  intro x y s
  exact ⟨encodedAs_of_encode_family8 (n := 0x4) rfl,
    setResultAndFlag_next2_answers x (BitVec.toNat_add _ _) (toNat_carryFlag _ _)⟩

/-- Settles O38: wrapping subtraction is the difference modulo 256, and its borrow is `V[x] < V[y]`. -/
theorem subDifferenceAndNoBorrow : Obligations.SubDifferenceAndNoBorrow := by
  unfold Obligations.SubDifferenceAndNoBorrow
  intro x y s
  exact ⟨encodedAs_of_encode_family8 (n := 0x5) rfl,
    setResultAndFlag_next2_answers x (toNat_byteSub _ _) (toNat_noBorrowFlag _ _)⟩

/-- Settles O39: `V[x] > V[y]` is the borrow of `V[y] - V[x]`. -/
theorem subnDifferenceAndNoBorrow : Obligations.SubnDifferenceAndNoBorrow := by
  unfold Obligations.SubnDifferenceAndNoBorrow
  intro x y s
  exact ⟨encodedAs_of_encode_family8 (n := 0x7) rfl,
    setResultAndFlag_next2_answers x (toNat_byteSub _ _) (toNat_noBorrowFlag _ _)⟩

/-- Settles O40: shifting the quirk's source right halves it and drops its low bit. -/
theorem shiftRightHalvesSource : Obligations.ShiftRightHalvesSource := by
  unfold Obligations.ShiftRightHalvesSource
  intro x y s src hsrc
  obtain rfl := hsrc.eq
  exact ⟨encodedAs_of_encode_family8 (n := 0x6) rfl,
    setResultAndFlag_next2_answers x (BitVec.toNat_ushiftRight _ 1) (toNat_lowBitFlag _)⟩

/-- Settles O41: shifting the quirk's source left doubles it and drops its bit 7. -/
theorem shiftLeftDoublesSource : Obligations.ShiftLeftDoublesSource := by
  unfold Obligations.ShiftLeftDoublesSource
  intro x y s src hsrc
  obtain rfl := hsrc.eq
  exact ⟨encodedAs_of_encode_family8 (n := 0xE) rfl,
    setResultAndFlag_next2_answers x (by simp [Nat.shiftLeft_eq]) (toNat_highBitFlag _)⟩

/-- Settles O42: one register is written, in the state whose draw counter has moved. -/
theorem randomMasksTheDraw : Obligations.RandomMasksTheDraw := by
  unfold Obligations.RandomMasksTheDraw
  intro x kk s
  refine ⟨encodedAs_of_encode (formatXK_eq_ofNat 0xC x kk), _, rfl, fun k _ => ?bits, fun hkk => ?zeroMask, rfl, rfl,
    frame_setReg_next2 _ x _⟩
  case bits => rw [rndWith, State.reg_next2, State.reg_setReg_same, BitVec.getLsbD_and]
  case zeroMask => rw [rndWith, State.reg_next2, State.reg_setReg_same, hkk]; exact BitVec.and_zero

end Sys2Proof.Machine
end

section
/-!
PROOFS. The index register and the memory transfers (R200 to R206): three new values of I, then LD B, LD [I] and
LD Vx,[I] by whether the bytes they reach exist (R56), and a load reading back what a dump stored.
-/

namespace Sys2Proof.Machine

variable {s t : State} {x : RegIdx}

/-- The words of family F, where the low byte tells the operations apart (R89). -/
theorem encodedAs_of_encode_familyF {i : Instr} {kk : Byte} (h : encode i = formatXK 0xF x kk) :
    EncodedAs (0xF000 + kk.toNat + 256 * x) i := by
  refine encodedAs_of_encode (h.trans ?_)
  rw [formatXK_eq_ofNat]
  congr 1
  omega

/-! ### New values of I -/

/-- The largest byte's glyph address is far below 65536, so the unmasked product is exact (R202). -/
theorem toNat_glyphAddress (b : Byte) : (glyphAddress b).toNat = 0x050 + 5 * b.toNat := by
  have := b.isLt
  exact Nat.mod_eq_of_lt (a := 0x050 + 5 * b.toNat) (by omega)

theorem frame_setIdx_next2 (s : State) (a : Word) : Frame [] (s.setIdx a) (s.setIdx a).next2 :=
  frame_setPc (s.setIdx a) _

/-- R204, R205: the model's new I is the rule's. -/
theorem idxMoved_of_idx_eq (h : t.idx = idxAfter s x) : IdxMoved x s t := by
  refine ⟨fun hq => ?legacy, fun hq => h.trans (idxAfter_revised x hq)⟩
  have hx : (BitVec.ofNat 16 (x.val + 1)).toNat = x.val + 1 := Nat.mod_eq_of_lt (by omega)
  simp only [h, idxAfter, hq, BitVec.toNat_add, hx, Nat.add_assoc]

/-- Where the transfer's bytes exist, I moves without wrapping. -/
theorem IdxMoved.eq_of_inRange (h : IdxMoved x s t) (hle : s.idx.toNat + x.val ≤ 4095) :
    (s.quirks.loadStore = .legacy → t.idx.toNat = s.idx.toNat + x.val + 1) ∧
      (s.quirks.loadStore = .revised → t.idx = s.idx) := by
  obtain ⟨hlegacy, hrevised⟩ := h
  exact ⟨fun hq => (hlegacy hq).trans (Nat.mod_eq_of_lt (by omega)), hrevised⟩

/-! ### Stores and loads in range -/

theorem withRange_of_le {n : Nat} (k : State) (h : s.idx.toNat + n ≤ 4096) : withRange n s k = .next k :=
  withRange_ok k ((inRange_iff _ _).mpr (.inr h))

/-- A transfer changes registers, memory, I and the pc at most. -/
theorem keepsRest_of_transfer (s : State) (v : Vector Byte 16) (mem : Memory) (idx pc : Word) :
    KeepsRest { s with idx := idx } { s with v := v, mem := mem, idx := idx, pc := pc } :=
  ⟨rfl, rfl, rfl, rfl, rfl, rfl, rfl, rfl, rfl, rfl, rfl, rfl⟩

/-- The byte at place `k` of those stored (R53). -/
theorem State.read_store_add (s : State) {a k : Nat} {bs : List Byte} (h : a + bs.length ≤ 4096)
    (hk : k < bs.length) : (s.store a bs).read (a + k) = bs[k] := by
  have hin : a ≤ a + k ∧ a + k - a < bs.length := by omega
  rw [State.read_store _ _ _ _ h, dif_pos hin]
  simp only [Nat.add_sub_cancel_left]

/-- A number no greater than a byte is a byte. -/
theorem toNat_byteOfNat_of_le {b : Byte} {n : Nat} (h : n ≤ b.toNat) : (BitVec.ofNat 8 n).toNat = n :=
  Nat.mod_eq_of_lt (Nat.lt_of_le_of_lt h b.isLt)

/-- The state after a store of the digits of `V[x]` that does not fault (R203). -/
def State.storeDigits (s : State) (x : RegIdx) : State :=
  { s.store s.idx.toNat (bcdDigits (s.reg x)) with pc := s.pc + 2 }

theorem execLdBVx_inRange (h : s.idx.toNat + 2 ≤ 4095) : execLdBVx x s = .next (s.storeDigits x) :=
  withRange_of_le _ (by omega)

/-- R203: digit `k` at `I + k`. -/
theorem State.read_storeDigits (h : s.idx.toNat + 2 ≤ 4095) {k : Nat} (hk : k < (bcdDigits (s.reg x)).length) :
    (s.storeDigits x).read (s.idx.toNat + k) = (bcdDigits (s.reg x))[k] :=
  s.read_store_add (by rw [length_bcdDigits]; omega) hk

theorem keepsMemOutside_storeDigits : KeepsMemOutside s.idx.toNat 3 s (s.storeDigits x) :=
  fun c hc => s.read_store_outside _ c _ hc

/-- R204: memory outside the dumped bytes. -/
theorem keepsMemOutside_dumpRegs : KeepsMemOutside s.idx.toNat (x.val + 1) s (s.dumpRegs x) :=
  fun c hc => s.read_store_outside _ c _ (by rwa [length_regsUpTo])

/-- The state after a load of `V0` to `Vx` that does not fault (R205). -/
def State.loadRegsUpTo (s : State) (x : RegIdx) : State :=
  { s with v := loadRegs s.read s.idx.toNat (x.val + 1) s.v, idx := idxAfter s x, pc := s.pc + 2 }

theorem execLdVxMi_inRange (h : s.idx.toNat + x.val ≤ 4095) : execLdVxMi x s = .next (s.loadRegsUpTo x) :=
  withRange_of_le _ (by omega)

/-- R205: the loaded registers; `getElem_loadRegs_above` is about the others. -/
theorem State.reg_loadRegsUpTo {r : RegIdx} (hr : r ≤ x) :
    (s.loadRegsUpTo x).reg r = s.read (s.idx.toNat + r.val) :=
  (getElem_loadRegs _ _ _ _ r.val r.isLt).trans (if_pos (Nat.lt_succ_of_le hr))

/-! ### The obligations -/

/-- Settles O43: I is set, and the pc moves past the word. -/
theorem indexRegisterOperations : Obligations.IndexRegisterOperations := by
  unfold Obligations.IndexRegisterOperations
  intro x nnn s
  refine ⟨⟨encodedAs_of_encode rfl, _, rfl, toNat_addrZext nnn, rfl, frame_setIdx_next2 s _⟩,
    ⟨encodedAs_of_encode_familyF (kk := 0x1E) rfl, _, rfl, ?sum, rfl, frame_setIdx_next2 s _⟩,
    ⟨encodedAs_of_encode_familyF (kk := 0x29) rfl, _, rfl, toNat_glyphAddress _, rfl, frame_setIdx_next2 s _⟩⟩
  case sum => exact (BitVec.toNat_add _ _).trans (by rw [toNat_byteZext])

/-- Settles O44: no digit is greater than the byte, so each is stored exactly. -/
theorem storeBcdDigits : Obligations.StoreBcdDigits := by
  unfold Obligations.StoreBcdDigits
  refine fun x s => ⟨encodedAs_of_encode_familyF (kk := 0x33) rfl, fun h => ?_,
    fun h => ⟨_, exec_of_instrFault_some (if_pos h), rfl⟩⟩
  have hdigit {k : Nat} (hk : k < 3) := State.read_storeDigits (x := x) h hk
  refine ⟨_, execLdBVx_inRange h, ?hundreds, ?tens, ?ones, keepsMemOutside_storeDigits, fun _ _ => rfl,
    keepsRest_of_transfer s _ _ _ _, rfl⟩
  case hundreds => exact (congrArg _ (hdigit (k := 0) (by decide))).trans (toNat_byteOfNat_of_le (Nat.div_le_self _ _))
  case tens =>
    exact (congrArg _ (hdigit (k := 1) (by decide))).trans
      (toNat_byteOfNat_of_le ((Nat.mod_le _ _).trans (Nat.div_le_self _ _)))
  case ones => exact (congrArg _ (hdigit (k := 2) (by decide))).trans (toNat_byteOfNat_of_le (Nat.mod_le _ _))

/-- Settles O45: in range the answer is `dumpRegs`. -/
theorem registerDump : Obligations.RegisterDump := by
  unfold Obligations.RegisterDump
  refine fun x s => ⟨encodedAs_of_encode_familyF (kk := 0x55) rfl, fun h => ?_,
    fun h => ⟨_, exec_of_instrFault_some (if_pos h), rfl⟩⟩
  exact ⟨_, execLdMiVx_inRange h, fun _ => State.read_dumpRegs_reg h, keepsMemOutside_dumpRegs, fun _ _ => rfl,
    idxMoved_of_idx_eq rfl, keepsRest_of_transfer s _ _ _ _, rfl⟩

/-- Settles O46: in range the answer is `loadRegsUpTo`. -/
theorem registerLoad : Obligations.RegisterLoad := by
  unfold Obligations.RegisterLoad
  refine fun x s => ⟨encodedAs_of_encode_familyF (kk := 0x65) rfl, fun h => ?_,
    fun h => ⟨_, exec_of_instrFault_some (if_pos h), rfl⟩⟩
  exact ⟨_, execLdVxMi_inRange h, fun _ => State.reg_loadRegsUpTo,
    fun _ hr => getElem_loadRegs_above _ _ _ (Fin.not_le.mpr hr), fun _ => rfl,
    idxMoved_of_idx_eq rfl, keepsRest_of_transfer s _ _ _ _, rfl⟩

/-- Settles O47: the load reads, at each place, the register the dump stored there (R206). -/
theorem dumpThenLoadRestores : Obligations.DumpThenLoadRestores := by
  unfold Obligations.DumpThenLoadRestores
  intro x s t u h hdump hidx hquirks hbytes
  obtain rfl : s.dumpRegs x = t := Host.Outcome.next.inj ((execLdMiVx_inRange h).symm.trans hdump)
  obtain ⟨hlegacy, hrevised⟩ := (idxMoved_of_idx_eq (t := s.dumpRegs x) rfl).eq_of_inRange h
  have hu : u.idx.toNat + x.val ≤ 4095 := by rwa [hidx]
  have hload := (idxMoved_of_idx_eq (t := u.loadRegsUpTo x) rfl).eq_of_inRange hu
  rw [hidx, hquirks] at hload
  obtain ⟨hlegacy', hrevised'⟩ := hload
  refine ⟨_, execLdVxMi_inRange hu, fun k hk => ?restored, fun hq => ⟨hlegacy hq, hlegacy' hq⟩,
    fun hq => ⟨hrevised hq, hrevised' hq⟩⟩
  calc (u.loadRegsUpTo x).reg k
      = u.read (u.idx.toNat + k.val) := State.reg_loadRegsUpTo hk
    _ = u.read (s.idx.toNat + k.val) := by rw [hidx]
    _ = (s.dumpRegs x).read (s.idx.toNat + k.val) :=
      hbytes _ ⟨Nat.le_add_right _ _, Nat.add_le_add_left hk _⟩
    _ = s.reg k := State.read_dumpRegs_reg h hk

end Sys2Proof.Machine
end

section
/-!
PROOFS. The display (R231 to R240). A draw's pixels are distinct, since eight columns do not meet modulo 64 nor fifteen
rows modulo 32; so one draw flips each covered pixel once, and a second draw of the same sprite flips it back.
-/

namespace Sys2Proof.Machine

variable {s t u : State} {x y x' y' : RegIdx} {n : Fin 16}

/-! ### Where a sprite bit lands -/

theorem placePixel_wrapBoth_iff {tx ty : Nat} {q : Pixel} :
    placePixel .wrapBoth tx ty = some q ↔ q.1.val = tx % 64 ∧ q.2.val = ty % 32 := by
  simp only [placePixel, Option.some.injEq, Prod.ext_iff, Fin.ext_iff, eq_comm]

theorem placePixel_clip_iff {tx ty : Nat} {q : Pixel} :
    placePixel .clip tx ty = some q ↔ q.1.val = tx ∧ q.2.val = ty := by
  simp only [placePixel, Option.dite_none_right_eq_some, Option.some.injEq, Prod.ext_iff, Fin.ext_iff]
  constructor
  · rintro ⟨-, hx, hy⟩
    exact ⟨hx.symm, hy.symm⟩
  · rintro ⟨rfl, rfl⟩
    exact ⟨⟨q.1.isLt, q.2.isLt⟩, rfl, rfl⟩

/-- Under both policies: a target on the screen is its own residue. -/
theorem mod_of_placePixel {pol : WrapPolicy} {tx ty : Nat} {q : Pixel} (h : placePixel pol tx ty = some q) :
    q.1.val = tx % 64 ∧ q.2.val = ty % 32 := by
  cases pol with
  | wrapBoth => exact placePixel_wrapBoth_iff.mp h
  | clip =>
    obtain ⟨rfl, rfl⟩ := placePixel_clip_iff.mp h
    exact ⟨(Nat.mod_eq_of_lt q.1.isLt).symm, (Nat.mod_eq_of_lt q.2.isLt).symm⟩

/-! ### The pixels of a sprite -/

theorem mem_rowPixels {pol : WrapPolicy} {px ty : Nat} {b : Byte} {q : Pixel} :
    q ∈ rowPixels pol px ty b ↔ ∃ c < 8, b.getLsbD (7 - c) = true ∧ placePixel pol (px + c) ty = some q := by
  have hcols (c : Nat) : c ∈ [0, 1, 2, 3, 4, 5, 6, 7] ↔ c < 8 := by
    simp only [List.mem_cons, List.not_mem_nil, or_false]
    omega
  simp only [rowPixels, List.mem_filterMap, hcols, Option.ite_none_right_eq_some]

theorem mem_spritePixels {pol : WrapPolicy} {px : Nat} {q : Pixel} {py : Nat} {rows : List Byte} :
    q ∈ spritePixels pol px py rows ↔ ∃ r, ∃ h : r < rows.length, q ∈ rowPixels pol px (py + r) rows[r] := by
  induction rows generalizing py with
  | nil => simp [spritePixels]
  | cons b rows ih =>
    refine Iff.trans ?_ Nat.or_exists_add_one
    simp [spritePixels, ih, Nat.add_assoc, Nat.add_comm 1]

theorem snd_of_mem_rowPixels {pol : WrapPolicy} {px ty : Nat} {b : Byte} {q : Pixel} (h : q ∈ rowPixels pol px ty b) :
    q.2.val = ty % 32 := by
  obtain ⟨_, -, -, hq⟩ := mem_rowPixels.mp h
  exact (mod_of_placePixel hq).2

/-- Two of the eight columns never fall on one pixel. -/
theorem nodup_rowPixels (pol : WrapPolicy) (px ty : Nat) (b : Byte) : (rowPixels pol px ty b).Nodup := by
  have hplaced {c : Nat} {q : Pixel} (h : (if b.getLsbD (7 - c) then placePixel pol (px + c) ty else none) = some q) :
      q.1.val = (px + c) % 64 := (mod_of_placePixel (Option.ite_none_right_eq_some.mp h).2).1
  have hcols : [0, 1, 2, 3, 4, 5, 6, 7].Pairwise fun c c' => c < c' ∧ c' < 8 := by decide
  refine List.pairwise_filterMap.mpr (hcols.imp ?_)
  rintro c c' ⟨hlt, hlast⟩ q hq q' hq' rfl
  have := hplaced hq
  have := hplaced hq'
  omega

/-- R240(a): no two set bits of a sprite of at most 32 rows fall on one pixel. -/
theorem nodup_spritePixels (pol : WrapPolicy) (px : Nat) {py : Nat} {rows : List Byte} (h : rows.length ≤ 32) :
    (spritePixels pol px py rows).Nodup := by
  induction rows generalizing py with
  | nil => exact List.nodup_nil
  | cons b rows ih =>
    rw [List.length_cons] at h
    refine List.nodup_append'.mpr ⟨nodup_rowPixels pol px py b, ih (by omega), fun q hq hq' => ?_⟩
    obtain ⟨r, hr, hqr⟩ := mem_spritePixels.mp hq'
    have := snd_of_mem_rowPixels hq
    have := snd_of_mem_rowPixels hqr
    omega

/-! ### The pixels of a draw -/

theorem covers_iff {q : Pixel} :
    Covers x y n s q ↔ ∃ r c, r < n.val ∧ c < 8 ∧ spriteBit s r c = true ∧
      placePixel s.quirks.wrap ((s.reg x).toNat + c) ((s.reg y).toNat + r) = some q := by
  unfold Covers
  cases s.quirks.wrap with
  | wrapBoth => simp only [placePixel_wrapBoth_iff]
  | clip => simp only [placePixel_clip_iff]

theorem mem_drwPixels {q : Pixel} : q ∈ drwPixels x y n s ↔ Covers x y n s q := by
  simp only [drwPixels, mem_spritePixels, mem_rowPixels, State.getElem_readBytes, State.length_readBytes, covers_iff,
    spriteBit, exists_prop, ← exists_and_left]

theorem nodup_drwPixels : (drwPixels x y n s).Nodup :=
  nodup_spritePixels _ _ (by rw [State.length_readBytes]; omega)

/-- What a draw covers depends on the policy, the coordinates and the sprite bytes only. -/
theorem covers_congr (hidx : u.idx = s.idx) (hwrap : u.quirks.wrap = s.quirks.wrap) (hmem : KeepsMem s u)
    (hx : u.reg x' = s.reg x) (hy : u.reg y' = s.reg y) {q : Pixel} : Covers x' y' n u q ↔ Covers x y n s q := by
  simp only [covers_iff, spriteBit, hidx, hwrap, hmem _, hx, hy]

/-! ### Drawing distinct pixels (R238) -/

/-- Each listed pixel is flipped once, whatever the order. -/
theorem pixel_drawPixels {ps : List Pixel} (h : ps.Nodup) (fb : Framebuffer) (hit : Bool) (q : Pixel) :
    Framebuffer.pixel (drawPixels ps (fb, hit)).1 q =
      if q ∈ ps then !(Framebuffer.pixel fb q) else Framebuffer.pixel fb q := by
  induction ps generalizing fb hit with
  | nil => rfl
  | cons p ps ih =>
    obtain ⟨hp, hps⟩ := List.nodup_cons.mp h
    rw [drawPixels_cons, ih hps, Framebuffer.pixel_toggle]
    by_cases hq : q = p
    · subst hq
      simp [hp]
    · simp [hq]

/-- No pixel is drawn after it was flipped, so the collision is with pixels as they stood before the draw. -/
theorem hit_drawPixels {ps : List Pixel} (h : ps.Nodup) (fb : Framebuffer) (hit : Bool) :
    (drawPixels ps (fb, hit)).2 = true ↔ hit = true ∨ ∃ q ∈ ps, Framebuffer.pixel fb q = true := by
  induction ps generalizing fb hit with
  | nil => simp
  | cons p ps ih =>
    obtain ⟨hp, hps⟩ := List.nodup_cons.mp h
    have hrest (q : Pixel) (hq : q ∈ ps) :
        Framebuffer.pixel (Framebuffer.toggle fb p) q = Framebuffer.pixel fb q := by
      rw [Framebuffer.pixel_toggle, if_neg (ne_of_mem_of_not_mem hq hp)]
    have hseen : (∃ q ∈ ps, Framebuffer.pixel (Framebuffer.toggle fb p) q = true) ↔
        ∃ q ∈ ps, Framebuffer.pixel fb q = true :=
      exists_congr fun q => and_congr_right fun hq => by rw [hrest q hq]
    rw [drawPixels_cons, ih hps, hseen, Bool.or_eq_true, or_assoc, List.exists_mem_cons_iff]

/-! ### One draw -/

/-- The state after a draw that does not fault (R238, R239). -/
def State.draw (s : State) (x y : RegIdx) (n : Fin 16) : State :=
  (({ s with fb := (drwResult x y n s).1 } : State).setReg 15 (flagByte (drwResult x y n s).2)).next2

theorem execDrw_inRange (h : SpriteInRange n s) : execDrw x y n s = .next (s.draw x y n) := by
  refine withRange_ok _ ((inRange_iff _ _).mpr ?_)
  unfold SpriteInRange at h
  omega

theorem instrFault_drw_some (h : ¬ SpriteInRange n s) : instrFault (.drw x y n) s = some .dataOutOfBounds := by
  refine if_pos ?_
  unfold SpriteInRange at h
  omega

theorem hit_drwResult :
    (drwResult x y n s).2 = true ↔ ∃ q, Covers x y n s q ∧ Framebuffer.pixel s.fb q = true := by
  simp only [drwResult, hit_drawPixels nodup_drwPixels, mem_drwPixels, Bool.false_eq_true, false_or]

theorem drawn_draw (s : State) (x y : RegIdx) (n : Fin 16) : Drawn x y n s (s.draw x y n) := by
  have hpixel (q : Pixel) := pixel_drawPixels (nodup_drwPixels (x := x) (y := y) (n := n) (s := s)) s.fb false q
  have hflag : (s.draw x y n).reg 15 = flagByte (drwResult x y n s).2 := State.reg_setReg_same _ _ _
  refine ⟨fun q => ⟨fun hq => ?covered, fun hq => ?uncovered⟩, fun hhit => ?hit, fun hmiss => ?miss⟩
  case covered => exact (hpixel q).trans (if_pos (mem_drwPixels.mpr hq))
  case uncovered => exact (hpixel q).trans (if_neg (mem_drwPixels.not.mpr hq))
  case hit => rw [hflag, hit_drwResult.mpr hhit]; rfl
  case miss => rw [hflag, Bool.eq_false_iff.mpr (hit_drwResult.not.mpr hmiss)]; rfl

theorem Drawn.covered (h : Drawn x y n s t) {q : Pixel} (hq : Covers x y n s q) :
    Framebuffer.pixel t.fb q = !(Framebuffer.pixel s.fb q) := by
  obtain ⟨hpixel, -⟩ := h
  exact (hpixel q).left hq

theorem Drawn.uncovered (h : Drawn x y n s t) {q : Pixel} (hq : ¬ Covers x y n s q) :
    Framebuffer.pixel t.fb q = Framebuffer.pixel s.fb q := by
  obtain ⟨hpixel, -⟩ := h
  exact (hpixel q).right hq

theorem Drawn.flag_iff (h : Drawn x y n s t) :
    t.reg 15 = 1 ↔ ∃ q, Covers x y n s q ∧ Framebuffer.pixel s.fb q = true := by
  obtain ⟨-, hhit, hmiss⟩ := h
  refine ⟨fun hflag => by_contra fun hno => ?_, hhit⟩
  rw [hmiss hno] at hflag
  exact absurd hflag (by decide)

/-! ### The obligations -/

/-- Settles O50: a draw in range answers `State.draw`, which does to the pixels what `drawn_draw` says. -/
theorem drawFlipsExactlyTheCoveredPixels : Obligations.DrawFlipsExactlyTheCoveredPixels := by
  unfold Obligations.DrawFlipsExactlyTheCoveredPixels
  refine fun x y n s => ⟨encodedAs_of_encode (formatXY_eq_ofNat 0xD x y n), fun h => ⟨?draws, fun hp => ?dirty⟩,
    fun h => ⟨_, exec_of_instrFault_some (instrFault_drw_some h), rfl⟩⟩
  case draws => exact ⟨_, execDrw_inRange h, drawn_draw s x y n, rfl, frame_setReg_next2 _ 15 _⟩
  case dirty => exact stepOutput_run_ok hp (instrFault_drw_none_iff.mpr h)

/-- Settles O51: both draws cover the same pixels, and the second meets each of them flipped. -/
theorem drawTwiceRestores : Obligations.DrawTwiceRestores := by
  unfold Obligations.DrawTwiceRestores
  intro x y x' y' n s t u h hdraw hfb hidx hwrap hmem hx hy
  obtain rfl : s.draw x y n = t := Host.Outcome.next.inj ((execDrw_inRange h).symm.trans hdraw)
  have hcovers {q : Pixel} : Covers x' y' n u q ↔ Covers x y n s q := covers_congr hidx hwrap hmem hx hy
  have hu : SpriteInRange n u := by rwa [SpriteInRange, hidx]
  have hfirst := drawn_draw s x y n
  have hsecond := drawn_draw u x' y' n
  refine ⟨_, execDrw_inRange hu, Framebuffer.ext_pixel fun q => ?restored, hfirst.flag_iff,
    hsecond.flag_iff.trans (exists_congr fun q => ?flag)⟩
  case restored =>
    by_cases hq : Covers x y n s q
    · rw [hsecond.covered (hcovers.mpr hq), hfb, hfirst.covered hq, Bool.not_not]
    · rw [hsecond.uncovered (hcovers.not.mpr hq), hfb, hfirst.uncovered hq]
  case flag =>
    rw [hcovers]
    exact and_congr_right fun hq => by rw [hfb, hfirst.covered hq, Bool.not_eq_true']

/-- Settles O49: CLS writes the pixels and the pc, and has no fault condition. -/
theorem clearScreen : Obligations.ClearScreen := by
  unfold Obligations.ClearScreen
  refine ⟨encodedAs_of_encode rfl, fun s => ⟨⟨_, rfl, pixel_clear, rfl, frame_setPc _ _⟩, fun hp => ?dirty⟩⟩
  case dirty => exact stepOutput_run_ok hp rfl

end Sys2Proof.Machine
end

section
/-!
PROOFS. The timer instructions (R260 to R262): each moves one byte between a register and a timer, and the cue is a tick's
and not a write's, so what LD ST leaves in ST alone decides the next tick's cue.
-/

namespace Sys2Proof.Machine

/-- R314: the cue of a tick marks ST going from 1 to 0. -/
theorem tickTimers_cue_iff (s : State) : (tickTimers s).2 = true ↔ s.st.toNat = 1 :=
  beq_iff_eq.trans BitVec.toNat_inj.symm

/-- R261: the state after LD DT, Vx keeps all but the pc of the state with the new DT. -/
theorem execLdDtVx_eq_setPc (x : RegIdx) (s : State) :
    execLdDtVx x s = .next (({ s with dt := s.reg x } : State).setPc (s.pc + 2)) := rfl

/-- R262: the state after LD ST, Vx keeps all but the pc of the state with the new ST. -/
theorem execLdStVx_eq_setPc (x : RegIdx) (s : State) :
    execLdStVx x s = .next ((s.withSt (s.reg x)).setPc (s.pc + 2)) := rfl

/-- Settles O52: LD Vx,DT writes one register; the two writes to a timer move only the pc once the timer is set. -/
theorem timerInstructions : Obligations.TimerInstructions := by
  unfold Obligations.TimerInstructions
  refine fun x s => ⟨⟨encodedAs_of_encode_familyF (kk := 0x07) rfl, ?readDt⟩,
    ⟨encodedAs_of_encode_familyF (kk := 0x15) rfl, ?writeDt⟩,
    ⟨encodedAs_of_encode_familyF (kk := 0x18) rfl, ?writeSt⟩⟩
  case readDt => exact ⟨_, rfl, State.reg_setReg_same s x s.dt, rfl, frame_setReg_next2 s x s.dt⟩
  case writeDt => exact ⟨_, execLdDtVx_eq_setPc x s, rfl, rfl, frame_setPc _ _⟩
  case writeSt => exact ⟨_, execLdStVx_eq_setPc x s, rfl, rfl, frame_setPc _ _, tickTimers_cue_iff _⟩

end Sys2Proof.Machine
end

section
/-!
PROOFS. The key skips and the key wait (R270 to R278): a skip by whether its register names a key, the five transitions
of the wait, the word a pending wait stands on, and the steps it takes to resolve.
-/

namespace Sys2Proof.Machine

variable {s t : State} {x : RegIdx}

/-! ### The key skips -/

/-- The words of the families that are told apart by their low byte (R88, R89). -/
theorem encodedAs_of_encode_formatXK {i : Instr} {op : Nat} {kk : Byte} (h : encode i = formatXK op x kk) :
    EncodedAs (op * 4096 + kk.toNat + 256 * x) i := by
  refine encodedAs_of_encode (h.trans ?_)
  rw [formatXK_eq_ofNat]
  congr 1
  omega

/-- R270, R271: with `V[x]` naming key `k`, the skip is on that key being as wanted. -/
theorem skipOnKey_answers (want : Bool) {k : Fin 16} (h : (s.reg x).toNat = k.val) :
    ∃ t, skipOnKey want x s = .next t ∧ Frame [] s t ∧
      t.pc = (if s.keys[k.val] = want then s.pc + 4 else s.pc + 2) := by
  obtain ⟨hgt, -⟩ | ⟨_, hskip⟩ := skipOnKey_cases want x s
  · omega
  · simp only [hskip, h]
    exact skipIf_moves_pc_only beq_iff_eq

theorem skipOnKey_above (want : Bool) (h : (s.reg x).toNat > 15) :
    ∃ t, skipOnKey want x s = .next t ∧ OnlyFault .keyIndexOutOfRange s t := by
  obtain ⟨-, hfault⟩ | ⟨hlt, -⟩ := skipOnKey_cases want x s
  · exact ⟨_, hfault, rfl⟩
  · omega

/-- Settles O53: both skips are one operation, on the key being pressed and on its not being. -/
theorem keySkips : Obligations.KeySkips := by
  unfold Obligations.KeySkips
  refine fun x s => ⟨encodedAs_of_encode_formatXK (op := 0xE) (kk := 0x9E) rfl,
    encodedAs_of_encode_formatXK (op := 0xE) (kk := 0xA1) rfl,
    fun k hk => ⟨skipOnKey_answers true hk, ?notPressed⟩,
    fun hgt => ⟨skipOnKey_above true hgt, skipOnKey_above false hgt⟩⟩
  case notPressed =>
    obtain ⟨t, ht, hframe, hpc⟩ := skipOnKey_answers false hk
    exact ⟨t, ht, hframe, by simp only [hpc, ← Bool.not_eq_true, ite_not]⟩

/-! ### The transitions of the key wait -/

/-- The state with `l` in the key-wait latch (R30). -/
def State.withLatch (s : State) (l : Latch) : State := { s with latch := l }

theorem leastPressed_eq_none {keys : Vector Bool 16} (h : ∀ k : Fin 16, keys[k.val] = false) :
    leastPressed keys = none := by
  rw [leastPressed, List.find?_eq_none]
  exact fun k _ => Bool.not_eq_true _ ▸ h k

theorem leastPressed_eq_some {keys : Vector Bool 16} {k : Fin 16} (hk : keys[k.val] = true)
    (hleast : ∀ j : Fin 16, j < k → keys[j.val] = false) : leastPressed keys = some k := by
  rw [leastPressed, List.find?_eq_some_iff_getElem]
  refine ⟨hk, k.val, by simp, by simp, fun j hj => ?_⟩
  have hlow := hleast ⟨j, by omega⟩ hj
  simpa using hlow

/-- R274. -/
theorem execLdVxK_idle (h : s.latch = .idle) : execLdVxK x s = .next (s.withLatch .waitingForPress) := by
  simp only [execLdVxK, h, State.withLatch]

/-- R275 with no key pressed. -/
theorem execLdVxK_noKey (h : s.latch = .waitingForPress) (hkeys : leastPressed s.keys = none) :
    execLdVxK x s = .next s := by
  simp only [execLdVxK, h, hkeys]

/-- R275 with a key pressed. -/
theorem execLdVxK_pressed {k : Fin 16} (h : s.latch = .waitingForPress) (hkeys : leastPressed s.keys = some k) :
    execLdVxK x s = .next (s.withLatch (.waitingForRelease k)) := by
  simp only [execLdVxK, h, hkeys, State.withLatch]

/-- R276 with the captured key held. -/
theorem execLdVxK_held {k : Fin 16} (h : s.latch = .waitingForRelease k) (hk : s.keys[k.val] = true) :
    execLdVxK x s = .next s := by
  simp only [execLdVxK, h, hk, if_true]

/-- R276 with the captured key released: the wait resolves. -/
theorem execLdVxK_released {k : Fin 16} (h : s.latch = .waitingForRelease k) (hk : s.keys[k.val] = false) :
    execLdVxK x s = .next (((s.withLatch .idle).setReg x (BitVec.ofNat 8 k.val)).next2) := by
  simp only [execLdVxK, h, hk, Bool.false_eq_true, if_false]
  rfl

theorem frame_refl (s : State) : Frame [] s s := frame_setPc s s.pc

/-- A key index fits a byte. -/
theorem toNat_keyByte (k : Fin 16) : (BitVec.ofNat 8 k.val).toNat = k.val := Nat.mod_eq_of_lt (by omega)

theorem toNat_reg_resolved (s : State) (x : RegIdx) (k : Fin 16) :
    ((((s.withLatch .idle).setReg x (BitVec.ofNat 8 k.val)).next2).reg x).toNat = k.val := by
  rw [State.reg_next2, State.reg_setReg_same, toNat_keyByte]

/-- Settles O54, transition by transition. -/
theorem keyWaitTransitions : Obligations.KeyWaitTransitions := by
  unfold Obligations.KeyWaitTransitions
  refine fun x s => ⟨encodedAs_of_encode_familyF (kk := 0x0A) rfl, fun hl => ?idle, fun hl hkeys => ?noKey,
    fun k hl hk hleast => ?pressed, fun k hl hk => execLdVxK_held hl hk, fun k hl hk => ?released⟩
  case idle => exact ⟨_, execLdVxK_idle hl, rfl, rfl, frame_refl _⟩
  case noKey => exact execLdVxK_noKey hl (leastPressed_eq_none hkeys)
  case pressed => exact ⟨_, execLdVxK_pressed hl (leastPressed_eq_some hk hleast), rfl, rfl, frame_refl _⟩
  case released =>
    exact ⟨_, execLdVxK_released hl hk, toNat_reg_resolved s x k, rfl, rfl,
      frame_setReg_next2 (s.withLatch .idle) x _⟩

/-! ### The word of a pending wait (R278) -/

/-- A step's phase is read from the fault status, the pc and memory alone (R111 to R115). -/
theorem phase_congr (hfault : t.fault = s.fault := by rfl) (hpc : t.pc = s.pc := by rfl)
    (hmem : KeepsMem s t := by exact fun _ => rfl) : phase t = phase s := by
  simp only [phase, wordAt, hfault, hpc, hmem _]

theorem phase_withLatch (s : State) (l : Latch) : phase (s.withLatch l) = phase s := phase_congr

theorem State.WaitStands.of_phase_eq (h : s.WaitStands) (hlatch : t.latch = s.latch) (hphase : phase t = phase s) :
    t.WaitStands := by
  rw [State.WaitStands, hlatch, hphase]
  exact h

/-- A key wait that goes on changes the latch and nothing else. -/
theorem eq_withLatch_of_execLdVxK (h : execLdVxK x s = .next t) (hpending : t.latch ≠ .idle) :
    ∃ l, t = s.withLatch l := by
  obtain ⟨-, hk⟩ | ⟨-, hk⟩ | ⟨_, -, -, hk⟩ | ⟨_, -, -, hk⟩ := execLdVxK_cases x s <;>
    obtain rfl := Host.Outcome.next.inj (hk.symm.trans h)
  case inl => exact ⟨_, rfl⟩
  case inr.inl => cases leastPressed s.keys <;> exact ⟨_, rfl⟩
  case inr.inr.inl => exact ⟨_, rfl⟩
  case inr.inr.inr => exact absurd rfl hpending

/-- Only LD Vx, K writes the latch. -/
theorem latch_of_step (h : step s = .next t) (hne : ∀ x, phase s ≠ .run (.ldVxK x)) : t.latch = s.latch := by
  cases hp : phase s with
  | halted k => rw [← Host.Outcome.next.inj ((step_halted hp).symm.trans h)]
  | fetchFault k => rw [← Host.Outcome.next.inj ((step_fetchFault hp).symm.trans h), takeFault_latch]
  | unknown w => rw [← Host.Outcome.next.inj ((step_unknown hp).symm.trans h), State.next2_latch]
  | run i =>
    refine (exec_writesOnly ((step_run hp).symm.trans h)).latch fun x hx => ?_
    exact hne x (hx ▸ hp)

/-- A step that leaves a wait pending has run a wait-key: the wait was pending already, or the step began it. -/
theorem State.WaitStands.phase_of_step (h : s.WaitStands) (hstep : step s = .next t) (hpending : t.latch ≠ .idle) :
    ∃ x, phase s = .run (.ldVxK x) := by
  by_contra hne
  rw [not_exists] at hne
  rw [latch_of_step hstep hne] at hpending
  obtain ⟨x, hx⟩ := h hpending
  exact hne x hx

theorem State.WaitStands.of_step (h : s.WaitStands) (hstep : step s = .next t) : t.WaitStands := by
  intro hpending
  obtain ⟨x, hp⟩ := h.phase_of_step hstep hpending
  obtain ⟨l, rfl⟩ := eq_withLatch_of_execLdVxK ((step_run hp).symm.trans hstep) hpending
  exact ⟨x, (phase_withLatch s l).trans hp⟩

theorem stepState_of_step (h : step s = .next t) : stepState s = t := by
  simp only [stepState, h]

theorem State.WaitStands.of_hostStep (h : s.WaitStands) (op : HostOp) (hload : ∀ bytes, op ≠ .load bytes) :
    (hostStep op s).1.WaitStands := by
  cases op with
  | init => exact fun hpending => absurd (init_latch s) hpending
  | load bytes => exact absurd rfl (hload bytes)
  | step =>
    obtain ⟨t, ht, -⟩ := exists_stepOutcome s
    rw [hostStep, stepState_of_step ht]
    exact h.of_step ht
  | tickTimers | writeKeys | writeQuirks => exact h.of_phase_eq rfl phase_congr
  | readFramebuffer => exact h

/-- Settles O27: the wait's own steps and the host's ports keep the phase, and construction leaves no wait pending. -/
theorem pendingWaitStaysOnItsWord : Obligations.PendingWaitStaysOnItsWord := by
  unfold Obligations.PendingWaitStaysOnItsWord
  exact ⟨fun _ _ h => h.of_step, fun _ op h => h.of_hostStep op,
    fun q g hpending => absurd (State.construct_latch q g) hpending⟩

/-! ### The steps of a wait (R277) -/

theorem runOps_append (ops ops' : List HostOp) (s : State) : runOps (ops ++ ops') s = runOps ops' (runOps ops s) := by
  induction ops generalizing s with
  | nil => rfl
  | cons op ops ih => exact ih _

/-- The state `t` is `s` but for the latch, which is `l`, the keys, which are `ks`, and the timers: what the key wait,
key writes and ticks make of `s` while the wait is pending. -/
def Waits (s : State) (l : Latch) (ks : Vector Bool 16) (t : State) : Prop :=
  ∃ dt st, t = { s with latch := l, keys := ks, dt := dt, st := st }

/-- The fewest steps in which a key wait resolves (R277). -/
def Latch.stepsToResolve : Latch → Nat
  | .idle => 3
  | .waitingForPress => 2
  | .waitingForRelease _ => 1

section Waiting

variable {l : Latch} {ks : Vector Bool 16}

theorem waits_self (s : State) : Waits s s.latch s.keys s := ⟨s.dt, s.st, rfl⟩

theorem Waits.latch_eq (h : Waits s l ks t) : t.latch = l := by
  obtain ⟨dt, st, rfl⟩ := h
  rfl

theorem Waits.keys_eq (h : Waits s l ks t) : t.keys = ks := by
  obtain ⟨dt, st, rfl⟩ := h
  rfl

theorem Waits.pc_eq (h : Waits s l ks t) : t.pc = s.pc := by
  obtain ⟨dt, st, rfl⟩ := h
  rfl

theorem Waits.reg_eq (h : Waits s l ks t) (r : RegIdx) : t.reg r = s.reg r := by
  obtain ⟨dt, st, rfl⟩ := h
  rfl

theorem Waits.keepsMem (h : Waits s l ks t) : KeepsMem s t := by
  obtain ⟨dt, st, rfl⟩ := h
  exact fun _ => rfl

theorem Waits.phase_eq (h : Waits s l ks t) : phase t = phase s := by
  obtain ⟨dt, st, rfl⟩ := h
  exact phase_congr

theorem Waits.withLatch (h : Waits s l ks t) (l' : Latch) : Waits s l' ks (t.withLatch l') := by
  obtain ⟨dt, st, rfl⟩ := h
  exact ⟨dt, st, rfl⟩

theorem Waits.writeKeys (h : Waits s l ks t) (ks' : Vector Bool 16) : Waits s l ks' (writeKeys ks' t) := by
  obtain ⟨dt, st, rfl⟩ := h
  exact ⟨dt, st, rfl⟩

theorem Waits.tickTimers (h : Waits s l ks t) : Waits s l ks (tickTimers t).1 := by
  obtain ⟨dt, st, rfl⟩ := h
  exact ⟨_, _, rfl⟩

theorem Waits.ticks (h : Waits s l ks t) (n : Nat) : Waits s l ks (runOps (List.replicate n .tickTimers) t) := by
  induction n generalizing t with
  | zero => exact h
  | succ n ih => exact ih h.tickTimers

/-- A key write with any number of ticks before and after it. -/
theorem Waits.ticks_writeKeys_ticks (h : Waits s l ks t) (m n : Nat) (ks' : Vector Bool 16) :
    Waits s l ks' (runOps (List.replicate n .tickTimers)
      (runOps [.writeKeys ks'] (runOps (List.replicate m .tickTimers) t))) :=
  ((h.ticks m).writeKeys ks').ticks n

section OnWaitKey

variable (hp : phase s = .run (.ldVxK x))

include hp

/-- While a wait is pending, a step is the wait-key's transition. -/
theorem Waits.stepState_eq {u : State} (h : Waits s l ks t) (hexec : execLdVxK x t = .next u) : stepState t = u :=
  stepState_of_step ((step_run (h.phase_eq.trans hp)).trans hexec)

theorem Waits.step_idle (h : Waits s .idle ks t) : Waits s .waitingForPress ks (stepState t) := by
  rw [h.stepState_eq hp (execLdVxK_idle h.latch_eq)]
  exact h.withLatch _

theorem Waits.step_noKey (h : Waits s .waitingForPress ks t)
    (hks : leastPressed ks = none) : Waits s .waitingForPress ks (stepState t) := by
  rw [h.stepState_eq hp (execLdVxK_noKey h.latch_eq (h.keys_eq ▸ hks))]
  exact h

theorem Waits.step_pressed {k : Fin 16} (h : Waits s .waitingForPress ks t)
    (hks : leastPressed ks = some k) : Waits s (.waitingForRelease k) ks (stepState t) := by
  rw [h.stepState_eq hp (execLdVxK_pressed h.latch_eq (h.keys_eq ▸ hks))]
  exact h.withLatch _

/-- A step makes one latch transition, never two, so it takes at most one off the steps to resolve. -/
theorem Waits.step_pending (h : Waits s l ks t) (hl : 1 < l.stepsToResolve) :
    ∃ l', Waits s l' ks (stepState t) ∧ l.stepsToResolve ≤ l'.stepsToResolve + 1 := by
  cases l with
  | idle => exact ⟨_, h.step_idle hp, Nat.le_refl _⟩
  | waitingForPress =>
    cases hks : leastPressed ks with
    | none => exact ⟨_, h.step_noKey hp hks, Nat.le_succ _⟩
    | some k => exact ⟨_, h.step_pressed hp hks, Nat.le_refl _⟩
  | waitingForRelease k => exact absurd hl (Nat.lt_irrefl 1)

/-- With fewer steps than it needs, the wait is still pending, whatever the host's key writes and ticks. -/
theorem Waits.runOps_pending {ops : List HostOp} (h : Waits s l ks t)
    (hops : ∀ op ∈ ops, op = .step ∨ op = .tickTimers ∨ ∃ ks', op = .writeKeys ks')
    (hcount : ops.count .step < l.stepsToResolve) : ∃ l' ks', Waits s l' ks' (runOps ops t) := by
  induction ops generalizing l ks t with
  | nil => exact ⟨l, ks, h⟩
  | cons op ops ih =>
    obtain ⟨hop, hrest⟩ := List.forall_mem_cons.mp hops
    obtain rfl | rfl | ⟨ks', rfl⟩ := hop
    · rw [List.count_cons_self] at hcount
      obtain ⟨l', h', hl'⟩ := h.step_pending hp (by omega)
      exact ih h' hrest (by omega)
    · rw [List.count_cons_of_ne (by decide)] at hcount
      exact ih h.tickTimers hrest hcount
    · rw [List.count_cons_of_ne (by simp)] at hcount
      exact ih (h.writeKeys ks') hrest hcount

/-- The step that sees the captured key released resolves the wait (R276). -/
theorem Waits.step_released {k : Fin 16} (h : Waits s (.waitingForRelease k) ks t) (hk : ks[k.val] = false) :
    ((stepState t).reg x).toNat = k.val ∧ (stepState t).latch = .idle ∧ (stepState t).pc = s.pc + 2 ∧
      KeepsRegs [x] s (stepState t) ∧ KeepsMem s (stepState t) := by
  rw [h.stepState_eq hp (execLdVxK_released h.latch_eq (h.keys_eq ▸ hk))]
  obtain ⟨hregs, hmem, -⟩ := frame_setReg_next2 (t.withLatch .idle) x (BitVec.ofNat 8 k.val)
  exact ⟨toNat_reg_resolved t x k, rfl, congrArg (· + 2) h.pc_eq, fun r hr => (hregs r hr).trans (h.reg_eq r),
    fun a => (hmem a).trans (h.keepsMem a)⟩

end OnWaitKey

end Waiting

/-- Settles O55: two steps leave the wait pending, and the third may find the captured key released. -/
theorem keyWaitResolvesInThreeSteps : Obligations.KeyWaitResolvesInThreeSteps := by
  unfold Obligations.KeyWaitResolvesInThreeSteps
  intro x s pressed released k a b c d hidle hp hk hleast hreleased
  have hstart : Waits s .idle s.keys s := hidle ▸ waits_self s
  refine ⟨fun ops hops hcount => ?noFewer, ?three⟩
  case noFewer =>
    obtain ⟨_, _, h⟩ := hstart.runOps_pending hp hops (Nat.lt_succ_of_le hcount)
    exact ⟨h.pc_eq, h.reg_eq⟩
  case three =>
    have hwaiting := (hstart.step_idle hp).ticks_writeKeys_ticks a b pressed
    have hcaptured := (hwaiting.step_pressed hp (leastPressed_eq_some hk hleast)).ticks_writeKeys_ticks c d released
    simp only [runOps_append]
    exact hcaptured.step_released hp hreleased

end Sys2Proof.Machine
end

section
/-!
PROOFS. The fault a step raises (R300, R301, R304): a step ends in fault entry exactly where `stepFault` names a kind.
-/

namespace Sys2Proof.Machine

variable {s : State} {k : FaultKind}

theorem stepFault_of_fetchCheck (hc : fetchCheck s.pc = some k) : stepFault s = some k := by
  unfold fetchCheck at hc
  unfold stepFault
  split at hc
  case isTrue hodd => rw [if_pos hodd, hc]
  case isFalse heven =>
    split at hc
    case isTrue hgt => rw [if_neg heven, if_pos hgt, hc]
    case isFalse => cases hc

theorem stepFault_of_decode_ok {i : Instr} (hc : fetchCheck s.pc = none)
    (hd : decodeWord (wordAt s s.pc.toNat) = .ok i) : stepFault s = instrFault i s := by
  obtain ⟨heven, hle⟩ := fetchCheck_none.mp hc
  rw [wordAt_pc] at hd
  rw [stepFault, if_neg (by omega), if_neg (by omega), hd]

theorem stepFault_of_decode_error {e : DecodeError} (hc : fetchCheck s.pc = none)
    (hd : decodeWord (wordAt s s.pc.toNat) = .error e) : stepFault s = none := by
  obtain ⟨heven, hle⟩ := fetchCheck_none.mp hc
  rw [wordAt_pc] at hd
  rw [stepFault, if_neg (by omega), if_neg (by omega), hd]

/-- A step raises `stepFault`, phase by phase. -/
theorem step_answersFault (hs : s.fault = none) : AnswersFault s (stepFault s) (step s) := by
  obtain ⟨k, hf, -⟩ | ⟨k, -, hc, hp⟩ | ⟨e, -, hc, hd, hp⟩ | ⟨i, -, hc, hd, hp⟩ := phase_cases s
  · rw [hs] at hf
    cases hf
  · rw [stepFault_of_fetchCheck hc]
    exact step_fetchFault hp
  · rw [stepFault_of_decode_error hc hd]
    exact ⟨_, step_unknown hp, rfl⟩
  · rw [stepFault_of_decode_ok hc hd, step_run hp]
    exact exec_answersFault i s

/-- From a state without fault, what an answer leaves in the fault status tells which fault it raised. -/
theorem AnswersFault.exists_next {f : Option FaultKind} {r : Result} (h : AnswersFault s f r) (hs : s.fault = none) :
    ∃ t, r = .next t ∧ t.fault = f ∧ ∀ k, f = some k → OnlyFault k s t := by
  cases f with
  | some k =>
    refine ⟨takeFault k s, h, rfl, fun k' hk' => ?_⟩
    obtain rfl := Option.some.inj hk'
    rfl
  | none =>
    obtain ⟨t, ht, hkeep⟩ := h
    exact ⟨t, ht, hkeep.trans hs, nofun⟩

/-- Settles O16: `stepFault` is raised where there is no fault yet, and a recorded fault halts the step. -/
theorem stepRaisesExactlyTheListedFaults : Obligations.StepRaisesExactlyTheListedFaults := by
  unfold Obligations.StepRaisesExactlyTheListedFaults
  exact ⟨fun s hs => (step_answersFault hs).exists_next hs,
    fun s k hk => ⟨s, step_halted (phase_halted hk), hk⟩, rfl⟩

/-- Settles O17: the fault the step leaves is the one `stepFault` names, and the step's outcome returns it. -/
theorem faultEntryChangesOnlyFault : Obligations.FaultEntryChangesOnlyFault := by
  unfold Obligations.FaultEntryChangesOnlyFault
  intro s t k hs hstep hk
  refine ⟨?onlyFault, ?output⟩
  case onlyFault =>
    obtain ⟨t', ht', hfault, honly⟩ := (step_answersFault hs).exists_next hs
    obtain rfl : t' = t := Host.Outcome.next.inj (ht'.symm.trans hstep)
    exact honly k (hfault.symm.trans hk)
  case output =>
    cases stepOutcome_of_step hstep with
    | faulted k' hfault _ hout =>
      obtain rfl : k' = k := Option.some.inj (hfault.symm.trans hk)
      exact hout
    | unknown _ hfault | ran _ hfault =>
      rw [hfault] at hk
      cases hk

/-- Settles O20: each phase of a step and each instruction ends in a next state. -/
theorem stepAlwaysAnswersNext : Obligations.StepAlwaysAnswersNext := by
  unfold Obligations.StepAlwaysAnswersNext
  refine ⟨fun s => ?step, fun i s => ?exec⟩
  case step =>
    obtain ⟨t, ht, -⟩ := exists_stepOutcome s
    exact ⟨t, ht⟩
  case exec =>
    obtain ⟨t, ht, -⟩ := exec_answersWritingOnly i s
    exact ⟨t, ht⟩

end Sys2Proof.Machine
end

section
/-!
PROOFS. The host's operations one by one (R311 to R319, R341 to R346): the tick, the ports, `load` and `init`.
-/

namespace Sys2Proof.Machine

/-! ### The tick -/

/-- R312, R313: a countdown is truncated subtraction. -/
theorem toNat_countDown (b : Byte) : (countDown b).toNat = b.toNat - 1 := by
  unfold countDown
  split
  · next h => simp [h]
  · next h => bv_omega

/-- Only a tick returns a cue (R314). -/
theorem hostStep_no_cue {op : HostOp} (h : op ≠ .tickTimers) (s : State) (c : Bool) : (hostStep op s).2 ≠ .cue c := by
  cases op with
  | tickTimers => exact absurd rfl h
  | init | load | step | writeKeys | writeQuirks | readFramebuffer => exact nofun

/-- Settles O5: the tick is one update of the two timers, and its cue is decided by ST alone. -/
theorem tickCountsBothTimersDown : Obligations.TickCountsBothTimersDown := by
  unfold Obligations.TickCountsBothTimersDown
  exact fun s => ⟨toNat_countDown s.dt, toNat_countDown s.st, tickTimers_cue_iff s, rfl,
    fun _ hop => hostStep_no_cue hop s⟩

/-! ### The ports -/

/-- The keys and the quirks have no column in R35, and a step outside an instruction leaves them too. -/
theorem keys_quirks_of_step {s t : State} (h : step s = .next t) : t.keys = s.keys ∧ t.quirks = s.quirks := by
  cases hp : phase s with
  | halted k =>
    obtain rfl := Host.Outcome.next.inj ((step_halted hp).symm.trans h)
    exact ⟨rfl, rfl⟩
  | fetchFault k =>
    obtain rfl := Host.Outcome.next.inj ((step_fetchFault hp).symm.trans h)
    exact ⟨rfl, rfl⟩
  | unknown w =>
    obtain rfl := Host.Outcome.next.inj ((step_unknown hp).symm.trans h)
    exact ⟨rfl, rfl⟩
  | run i =>
    have w := exec_writesOnly ((step_run hp).symm.trans h)
    exact ⟨w.keys, w.quirks⟩

/-- Settles O6: each port is one record update, and `keys_quirks_of_step` keeps what it wrote. -/
theorem portsTouchOnlyTheirState : Obligations.PortsTouchOnlyTheirState := by
  unfold Obligations.PortsTouchOnlyTheirState
  exact fun s => ⟨fun _ => ⟨rfl, rfl⟩, fun _ _ _ => ⟨rfl, rfl, rfl, rfl⟩, rfl, fun _ => keys_quirks_of_step⟩

/-! ### Loading an image -/

variable {bytes : List Byte}

theorem load_of_le (s : State) (h : bytes.length ≤ 3584) : load bytes s = (s.store 0x200 bytes, .ok) := if_pos h

theorem load_of_gt (s : State) (h : bytes.length > 3584) : load bytes s = (s, .imageTooLarge) :=
  if_neg (Nat.not_le.mpr h)

/-- A load writes memory at most, taken or refused. -/
theorem load_with_mem (bytes : List Byte) (s : State) : { (load bytes s).1 with mem := s.mem } = s := by
  obtain h | h := Nat.lt_or_ge 3584 bytes.length
  · rw [load_of_gt s h]
  · rw [load_of_le s h]
    rfl

/-- Settles O4: an image that fits is stored at 0x200. -/
theorem loadCopiesImageOnly : Obligations.LoadCopiesImageOnly := by
  unfold Obligations.LoadCopiesImageOnly
  refine fun s bytes => ⟨fun h => ⟨?ok, fun j hj => ?image, ?outside, load_with_mem bytes s⟩, load_of_gt s⟩ <;>
    rw [load_of_le s h]
  case image => exact s.read_store_add (by omega) hj
  case outside => exact fun c => s.read_store_outside 0x200 c bytes

/-! ### Reset -/

/-- After `init` a byte is its reset contents (R342). -/
theorem read_init (s : State) (a : Nat) : (init s).read a = resetByte s.glyphs a := rfl

/-- But for the draw counter, `init` answers the construction with the quirks and the glyph table kept (R341, R343). -/
theorem init_with_draws_zero (s : State) : { init s with draws := 0 } = State.construct s.quirks s.glyphs := rfl

theorem init_init (s : State) : init (init s) = init s := rfl

/-- `init` does not look at memory, so it undoes a load (R345). -/
theorem init_load (bytes : List Byte) (s : State) : init (load bytes s).1 = init s :=
  (congrArg init (load_with_mem bytes s) :)

/-- Settles O2: `init` reads the quirks, the glyph table and the draw counter, and a load writes none of them. -/
theorem initIsCompleteAndIdempotent : Obligations.InitIsCompleteAndIdempotent := by
  unfold Obligations.InitIsCompleteAndIdempotent
  refine ⟨fun s s' hquirks hglyphs => ?complete, init_init, fun s bytes => init_load bytes (init s)⟩
  rw [init_with_draws_zero, init_with_draws_zero, hquirks, hglyphs]

end Sys2Proof.Machine
end

section
/-!
PROOFS. What the host's operations keep, in any order (R302, R310): a recorded fault, `init` aside, and the invariant.
-/

namespace Sys2Proof.Machine

variable {s : State}

/-- What every operation of a run keeps, the run keeps. -/
theorem runOps_keeps {P : State → Prop} {ops : List HostOp}
    (hop : ∀ op ∈ ops, ∀ s, P s → P (hostStep op s).1) (h : P s) : P (runOps ops s) := by
  induction ops generalizing s with
  | nil => exact h
  | cons op ops ih =>
    rw [List.forall_mem_cons] at hop
    obtain ⟨hhead, htail⟩ := hop
    exact ih htail (hhead s h)

/-! ### The fault state (R302) -/

section Halted

variable {k : FaultKind} (hk : s.fault = some k)

include hk

theorem step_of_fault : step s = .next s := step_halted (phase_halted hk)

theorem run_of_fault (n : Nat) : Sys2Proof.core.run n s = .next s := by
  induction n with
  | zero => rfl
  | succ n ih =>
    have hstep : Sys2Proof.core.step s = .next s := step_of_fault hk
    simp only [Host.Core.run, hstep, ih]

theorem hostStep_keeps_fault {op : HostOp} (hop : op ≠ .init) : (hostStep op s).1.fault = some k := by
  cases op with
  | init => exact absurd rfl hop
  | load bytes => exact (congrArg State.fault (load_with_mem bytes s)).trans hk
  | step => rw [hostStep, stepState_of_step (step_of_fault hk), hk]
  | tickTimers | writeKeys | writeQuirks | readFramebuffer => exact hk

end Halted

/-- Settles O19: no step and no operation but `init` leaves the fault state, so no run without `init` does. -/
theorem onlyInitLeavesTheFaultState : Obligations.OnlyInitLeavesTheFaultState := by
  unfold Obligations.OnlyInitLeavesTheFaultState
  refine fun s k hk => ⟨run_of_fault hk, stepOutput_halted (phase_halted hk), fun ops hops => ?ops, init_fault s⟩
  exact runOps_keeps (P := fun t => t.fault = some k)
    (fun op hmem _ h => hostStep_keeps_fault h (fun heq => hops (heq ▸ hmem))) hk

/-- Settles O1: a byte after `init` is its reset contents, the glyph table's byte or 0. -/
theorem initSetsEveryElement : Obligations.InitSetsEveryElement := by
  unfold Obligations.InitSetsEveryElement
  refine fun s => ⟨fun r => ?reg, rfl, rfl, fun j => ?stack, rfl, rfl, rfl, pixel_clear, fun j => ?keys, rfl, rfl, rfl,
    rfl, fun d j hd hj => ?glyph, fun a ha => ?zero, rfl, fun op k hop hk => hostStep_keeps_fault hk hop⟩
  case reg => exact Vector.getElem_replicate r.isLt
  case stack => exact Vector.getElem_replicate j.isLt
  case keys => exact Vector.getElem_replicate j.isLt
  case glyph => rw [read_init, Nat.add_assoc, resetByte_glyph s.glyphs (by omega)]
  case zero => exact resetByte_zero s.glyphs (ha.imp_right And.left)

/-! ### The invariant (R122) -/

theorem construct_inv (q : Quirks) (g : GlyphTable) : (State.construct q g).Inv where
  memWf := rfl
  pcBound := by rw [State.construct_pc]; decide
  stackBound j := by simp
  stackEven j := by simp

theorem init_inv (s : State) : (init s).Inv :=
  (construct_inv s.quirks s.glyphs).of_pc_le (construct_inv s.quirks s.glyphs).pcBound

theorem State.Inv.load (h : s.Inv) (bytes : List Byte) : (load bytes s).1.Inv := by
  obtain hgt | hle := Nat.lt_or_ge 3584 bytes.length
  · rw [load_of_gt s hgt]
    exact h
  · rw [load_of_le s hle]
    exact h.store _ _

theorem State.Inv.stepState (h : s.Inv) : (stepState s).Inv := by
  obtain ⟨t, ht, hinv⟩ := step_answersInv h
  rwa [stepState_of_step ht]

theorem State.Inv.hostStep (h : s.Inv) (op : HostOp) : (hostStep op s).1.Inv := by
  cases op with
  | init => exact init_inv s
  | load bytes => exact h.load bytes
  | step => exact h.stepState
  | tickTimers | writeKeys | writeQuirks => exact h.of_pc_le h.pcBound
  | readFramebuffer => exact h

/-- Settles O24: reset is one of the constructions. -/
theorem resetMeetsInvariant : Obligations.ResetMeetsInvariant := by
  unfold Obligations.ResetMeetsInvariant
  exact ⟨construct_inv _ _, construct_inv⟩

/-- Settles O25, operation by operation. -/
theorem everyHostOperationKeepsInvariant : Obligations.EveryHostOperationKeepsInvariant := by
  unfold Obligations.EveryHostOperationKeepsInvariant
  exact fun _ op h => h.hostStep op

/-- Settles O26: the invariant holds at construction and every operation of the run keeps it. -/
theorem everyReachableStateMeetsInvariant : Obligations.EveryReachableStateMeetsInvariant := by
  unfold Obligations.EveryReachableStateMeetsInvariant
  rintro _ ⟨q, g, ops, rfl⟩
  exact runOps_keeps (fun op _ _ h => h.hostStep op) (construct_inv q g)

end Sys2Proof.Machine
end
